-- ==== Sys2Proof/Word.lean ====
section
/-! DEFINITION. The word types of the CHIP-8 engine (spec/00_scope.md R6, R8, R9): every register value,
immediate and address is unsigned, so bit vectors of the spec's widths carry them. A register or key number is
an index, never arithmetic of the machine, so it is a `Fin 16`. -/

namespace Sys2Proof

/-- A byte of memory, a general register, a timer (R6 `V_WIDTH`, `TIMER_WIDTH`). -/
abbrev Byte := BitVec 8

/-- A 16-bit value: an instruction word, `pc`, `I`, a stack entry (R6 `PC_WIDTH`, `I_WIDTH`, `STACK_WIDTH`). -/
abbrev Word := BitVec 16

/-- The 12-bit address field `nnn` (R55). -/
abbrev Addr12 := BitVec 12

/-- The 4-bit field `n` (R55): a row count of DXYN, or bits that no rule reads (R62). -/
abbrev Nibble := BitVec 4

/-- A general register number, V0 to VF (R22). -/
abbrev Reg := Fin 16

/-- A key number, 0 to F (R31). -/
abbrev Key := Fin 16

end Sys2Proof
end

