-- ==== Sys2Proof/Syntax.lean ====
section
/-! DEFINITION. The instructions: one constructor per row of spec/opcode_table.json, in the table's order
(spec/30_encoding.md R60). A constructor keeps EVERY bit of its word that the row leaves free, the bits no rule
reads among them (R62: `x` of 00E0 and 00EE, `n` of 5XY0 and 9XY0), so that a word and its instruction
determine each other. -/

namespace Sys2Proof

inductive Instr where
  /-- 0XE0 CLS (R75); `x` is read by no rule. -/
  | cls (x : Reg)
  /-- 0XEE RET (R80); `x` is read by no rule. -/
  | ret (x : Reg)
  /-- 0NNN SYS addr, for a low byte other than E0 and EE (R79). -/
  | sys (nnn : Addr12)
  /-- 1NNN JP addr (R81). -/
  | jp (nnn : Addr12)
  /-- 2NNN CALL addr (R82). -/
  | call (nnn : Addr12)
  /-- 3XKK SE Vx, byte (R83). -/
  | seByte (x : Reg) (kk : Byte)
  /-- 4XKK SNE Vx, byte (R84). -/
  | sneByte (x : Reg) (kk : Byte)
  /-- 5XYN SE Vx, Vy (R85); `n` is read by no rule. -/
  | seReg (x y : Reg) (n : Nibble)
  /-- 6XKK LD Vx, byte (R89). -/
  | ldByte (x : Reg) (kk : Byte)
  /-- 7XKK ADD Vx, byte (R90). -/
  | addByte (x : Reg) (kk : Byte)
  /-- 8XY0 LD Vx, Vy (R91). -/
  | ldReg (x y : Reg)
  /-- 8XY1 OR Vx, Vy (R92). -/
  | orReg (x y : Reg)
  /-- 8XY2 AND Vx, Vy (R93). -/
  | andReg (x y : Reg)
  /-- 8XY3 XOR Vx, Vy (R94). -/
  | xorReg (x y : Reg)
  /-- 8XY4 ADD Vx, Vy (R95). -/
  | addReg (x y : Reg)
  /-- 8XY5 SUB Vx, Vy (R96). -/
  | subReg (x y : Reg)
  /-- 8XY6 SHR Vx, Vy (R97). -/
  | shrReg (x y : Reg)
  /-- 8XY7 SUBN Vx, Vy (R98). -/
  | subnReg (x y : Reg)
  /-- 8XYE SHL Vx, Vy (R99). -/
  | shlReg (x y : Reg)
  /-- 9XYN SNE Vx, Vy (R86); `n` is read by no rule. -/
  | sneReg (x y : Reg) (n : Nibble)
  /-- ANNN LD I, addr (R101). -/
  | ldI (nnn : Addr12)
  /-- BNNN JP V0, addr (R87). -/
  | jpV0 (nnn : Addr12)
  /-- CXKK RND Vx, byte (R100). -/
  | rnd (x : Reg) (kk : Byte)
  /-- DXYN DRW Vx, Vy, nibble (R76). -/
  | drw (x y : Reg) (n : Nibble)
  /-- EX9E SKP Vx (R107). -/
  | skp (x : Reg)
  /-- EXA1 SKNP Vx (R108). -/
  | sknp (x : Reg)
  /-- FX07 LD Vx, DT (R109). -/
  | ldDt (x : Reg)
  /-- FX0A LD Vx, K (R110). -/
  | ldKey (x : Reg)
  /-- FX15 LD DT, Vx (R111). -/
  | setDt (x : Reg)
  /-- FX18 LD ST, Vx (R112). -/
  | setSt (x : Reg)
  /-- FX1E ADD I, Vx (R102). -/
  | addI (x : Reg)
  /-- FX29 LD F, Vx (R103). -/
  | ldFont (x : Reg)
  /-- FX33 LD B, Vx (R104). -/
  | ldBcd (x : Reg)
  /-- FX55 LD [I], Vx (R105). -/
  | storeRegs (x : Reg)
  /-- FX65 LD Vx, [I] (R106). -/
  | loadRegs (x : Reg)
  /-- 8XY8, undefined (R61, R71). -/
  | undef88 (x y : Reg)
  /-- 8XY9, undefined (R61, R71). -/
  | undef89 (x y : Reg)
  /-- 8XYA, undefined (R61, R71). -/
  | undef8A (x y : Reg)
  /-- 8XYB, undefined (R61, R71). -/
  | undef8B (x y : Reg)
  /-- 8XYC, undefined (R61, R71). -/
  | undef8C (x y : Reg)
  /-- 8XYD, undefined (R61, R71). -/
  | undef8D (x y : Reg)
  /-- 8XYF, undefined (R61, R71). -/
  | undef8F (x y : Reg)
  /-- EXkk with `kk` other than 9E and A1, undefined (R61, R71). -/
  | undefE (x : Reg) (kk : Byte)
  /-- FXkk with `kk` none of the nine sub-opcodes of R59, undefined (R61, R71). -/
  | undefF (x : Reg) (kk : Byte)
  deriving DecidableEq, Repr

end Sys2Proof
end

