-- ==== Sys2Proof/WellFormed.lean ====
section
/-! DEFINITION. Which terms of `Instr` are instructions of the opcode map (spec/30_encoding.md R59, R60, R61).
The widths of the fields are in their types; what is left to check are the three fallback rows of the table,
each of which excludes the words of the rows it falls back from. -/

namespace Sys2Proof

/-- SYS is the class-0 words whose low byte names neither CLS nor RET (R59, R79). -/
def Instr.sysLowByteFree (nnn : Addr12) : Bool :=
  nnn.setWidth 8 != 0xE0#8 && nnn.setWidth 8 != 0xEE#8

/-- The defined sub-opcodes of class E (R59). -/
def Instr.definedE : List Byte := [0x9E, 0xA1]

/-- The defined sub-opcodes of class F (R59). -/
def Instr.definedF : List Byte := [0x07, 0x0A, 0x15, 0x18, 0x1E, 0x29, 0x33, 0x55, 0x65]

/-- The well-formed instructions: each fallback row without the words of the rows above it. -/
def Instr.wellFormed : Instr → Bool
  | .sys nnn => Instr.sysLowByteFree nnn
  | .undefE _ kk => !Instr.definedE.contains kk
  | .undefF _ kk => !Instr.definedF.contains kk
  | .cls _ | .ret _ | .jp _ | .call _ | .seByte _ _ | .sneByte _ _ | .seReg _ _ _ | .ldByte _ _
  | .addByte _ _ | .ldReg _ _ | .orReg _ _ | .andReg _ _ | .xorReg _ _ | .addReg _ _ | .subReg _ _
  | .shrReg _ _ | .subnReg _ _ | .shlReg _ _ | .sneReg _ _ _ | .ldI _ | .jpV0 _ | .rnd _ _
  | .drw _ _ _ | .skp _ | .sknp _ | .ldDt _ | .ldKey _ | .setDt _ | .setSt _ | .addI _ | .ldFont _
  | .ldBcd _ | .storeRegs _ | .loadRegs _ | .undef88 _ _ | .undef89 _ _ | .undef8A _ _
  | .undef8B _ _ | .undef8C _ _ | .undef8D _ _ | .undef8F _ _ => true

/-- `i` is an instruction of the opcode map. -/
abbrev Instr.WellFormed (i : Instr) : Prop := i.wellFormed = true

end Sys2Proof
end

