-- ==== Sys2Proof/Decode.lean ====
section
/-! DEFINITION. From words to instructions and back (spec/30_encoding.md R54 to R62). Every 16-bit word is one
instruction, so decoding a word never fails; decoding bytes fails only where fewer than two are left. -/

namespace Sys2Proof

/-! ### The six fields of a word (R55) -/

/-- `op = w[15:12]`, the opcode class. -/
def opOf (w : Word) : BitVec 4 := w.extractLsb' 12 4
/-- `x = w[11:8]`, the first register number. -/
def xOf (w : Word) : Reg := (w.extractLsb' 8 4).toFin
/-- `y = w[7:4]`, the second register number. -/
def yOf (w : Word) : Reg := (w.extractLsb' 4 4).toFin
/-- `n = w[3:0]`, the low nibble. -/
def nOf (w : Word) : Nibble := w.extractLsb' 0 4
/-- `kk = w[7:0]`, the low byte. -/
def kkOf (w : Word) : Byte := w.extractLsb' 0 8
/-- `nnn = w[11:0]`, the address. -/
def nnnOf (w : Word) : Addr12 := w.extractLsb' 0 12

/-! ### The dispatcher (R58, R59, R60) -/

/-- Class 0: the low byte alone selects, `x` is not examined (R59, decision D4, assumption log 3). -/
def decodeClass0 (w : Word) : Instr :=
  match kkOf w with
  | 0xE0#8 => .cls (xOf w)
  | 0xEE#8 => .ret (xOf w)
  | _ => .sys (nnnOf w)

/-- Class 8: the low nibble selects (R59). -/
def decodeClass8 (w : Word) : Instr :=
  match nOf w with
  | 0x0#4 => .ldReg (xOf w) (yOf w)
  | 0x1#4 => .orReg (xOf w) (yOf w)
  | 0x2#4 => .andReg (xOf w) (yOf w)
  | 0x3#4 => .xorReg (xOf w) (yOf w)
  | 0x4#4 => .addReg (xOf w) (yOf w)
  | 0x5#4 => .subReg (xOf w) (yOf w)
  | 0x6#4 => .shrReg (xOf w) (yOf w)
  | 0x7#4 => .subnReg (xOf w) (yOf w)
  | 0x8#4 => .undef88 (xOf w) (yOf w)
  | 0x9#4 => .undef89 (xOf w) (yOf w)
  | 0xA#4 => .undef8A (xOf w) (yOf w)
  | 0xB#4 => .undef8B (xOf w) (yOf w)
  | 0xC#4 => .undef8C (xOf w) (yOf w)
  | 0xD#4 => .undef8D (xOf w) (yOf w)
  | 0xE#4 => .shlReg (xOf w) (yOf w)
  | _ => .undef8F (xOf w) (yOf w)

/-- Class E: the low byte selects (R59). -/
def decodeClassE (w : Word) : Instr :=
  match kkOf w with
  | 0x9E#8 => .skp (xOf w)
  | 0xA1#8 => .sknp (xOf w)
  | _ => .undefE (xOf w) (kkOf w)

/-- Class F: the low byte selects (R59). -/
def decodeClassF (w : Word) : Instr :=
  match kkOf w with
  | 0x07#8 => .ldDt (xOf w)
  | 0x0A#8 => .ldKey (xOf w)
  | 0x15#8 => .setDt (xOf w)
  | 0x18#8 => .setSt (xOf w)
  | 0x1E#8 => .addI (xOf w)
  | 0x29#8 => .ldFont (xOf w)
  | 0x33#8 => .ldBcd (xOf w)
  | 0x55#8 => .storeRegs (xOf w)
  | 0x65#8 => .loadRegs (xOf w)
  | _ => .undefF (xOf w) (kkOf w)

/-- The instruction of a word: first the class, then within classes 0, 8, E and F the secondary
discriminant (R58). The last arm is class F, the one class left. -/
def decodeWord (w : Word) : Instr :=
  match opOf w with
  | 0x0#4 => decodeClass0 w
  | 0x1#4 => .jp (nnnOf w)
  | 0x2#4 => .call (nnnOf w)
  | 0x3#4 => .seByte (xOf w) (kkOf w)
  | 0x4#4 => .sneByte (xOf w) (kkOf w)
  | 0x5#4 => .seReg (xOf w) (yOf w) (nOf w)
  | 0x6#4 => .ldByte (xOf w) (kkOf w)
  | 0x7#4 => .addByte (xOf w) (kkOf w)
  | 0x8#4 => decodeClass8 w
  | 0x9#4 => .sneReg (xOf w) (yOf w) (nOf w)
  | 0xA#4 => .ldI (nnnOf w)
  | 0xB#4 => .jpV0 (nnnOf w)
  | 0xC#4 => .rnd (xOf w) (kkOf w)
  | 0xD#4 => .drw (xOf w) (yOf w) (nOf w)
  | 0xE#4 => decodeClassE w
  | _ => decodeClassF w

/-! ### Decoding bytes (R44, R54) -/

/-- Why bytes do not decode. -/
inductive DecodeError where
  /-- Fewer than the two bytes of an instruction are left. -/
  | truncated
  deriving DecidableEq, Repr

/-- The word of two bytes as memory holds them: big-endian, the byte at the lower address is `w[15:8]` (R44). -/
def wordOfBytes (hi lo : Byte) : Word := hi ++ lo

/-- The instruction at the head of a list of bytes, and the bytes after it (R54). -/
def decode : List Byte → Except DecodeError (Instr × List Byte)
  | hi :: lo :: rest => .ok (decodeWord (wordOfBytes hi lo), rest)
  | _ => .error .truncated

/-! ### The encoder, from the formats of R56 and the map of R60 -/

/-- Format `FA`: `oooo nnnn nnnn nnnn`. -/
def formatFA (op : BitVec 4) (nnn : Addr12) : Word := op ++ nnn
/-- Formats `FXK`, `FXS` and `F0`: `oooo xxxx kkkk kkkk`, with the low byte an immediate or a sub-opcode. -/
def formatFXK (op : BitVec 4) (x : Reg) (kk : Byte) : Word := op ++ BitVec.ofFin (w := 4) x ++ kk
/-- Format `FXYN`: `oooo xxxx yyyy nnnn`. -/
def formatFXYN (op : BitVec 4) (x y : Reg) (n : Nibble) : Word :=
  op ++ BitVec.ofFin (w := 4) x ++ BitVec.ofFin (w := 4) y ++ n

/-- The word of an instruction. -/
def encode : Instr → Word
  | .cls x => formatFXK 0x0#4 x 0xE0#8
  | .ret x => formatFXK 0x0#4 x 0xEE#8
  | .sys nnn => formatFA 0x0#4 nnn
  | .jp nnn => formatFA 0x1#4 nnn
  | .call nnn => formatFA 0x2#4 nnn
  | .seByte x kk => formatFXK 0x3#4 x kk
  | .sneByte x kk => formatFXK 0x4#4 x kk
  | .seReg x y n => formatFXYN 0x5#4 x y n
  | .ldByte x kk => formatFXK 0x6#4 x kk
  | .addByte x kk => formatFXK 0x7#4 x kk
  | .ldReg x y => formatFXYN 0x8#4 x y 0x0#4
  | .orReg x y => formatFXYN 0x8#4 x y 0x1#4
  | .andReg x y => formatFXYN 0x8#4 x y 0x2#4
  | .xorReg x y => formatFXYN 0x8#4 x y 0x3#4
  | .addReg x y => formatFXYN 0x8#4 x y 0x4#4
  | .subReg x y => formatFXYN 0x8#4 x y 0x5#4
  | .shrReg x y => formatFXYN 0x8#4 x y 0x6#4
  | .subnReg x y => formatFXYN 0x8#4 x y 0x7#4
  | .shlReg x y => formatFXYN 0x8#4 x y 0xE#4
  | .sneReg x y n => formatFXYN 0x9#4 x y n
  | .ldI nnn => formatFA 0xA#4 nnn
  | .jpV0 nnn => formatFA 0xB#4 nnn
  | .rnd x kk => formatFXK 0xC#4 x kk
  | .drw x y n => formatFXYN 0xD#4 x y n
  | .skp x => formatFXK 0xE#4 x 0x9E#8
  | .sknp x => formatFXK 0xE#4 x 0xA1#8
  | .ldDt x => formatFXK 0xF#4 x 0x07#8
  | .ldKey x => formatFXK 0xF#4 x 0x0A#8
  | .setDt x => formatFXK 0xF#4 x 0x15#8
  | .setSt x => formatFXK 0xF#4 x 0x18#8
  | .addI x => formatFXK 0xF#4 x 0x1E#8
  | .ldFont x => formatFXK 0xF#4 x 0x29#8
  | .ldBcd x => formatFXK 0xF#4 x 0x33#8
  | .storeRegs x => formatFXK 0xF#4 x 0x55#8
  | .loadRegs x => formatFXK 0xF#4 x 0x65#8
  | .undef88 x y => formatFXYN 0x8#4 x y 0x8#4
  | .undef89 x y => formatFXYN 0x8#4 x y 0x9#4
  | .undef8A x y => formatFXYN 0x8#4 x y 0xA#4
  | .undef8B x y => formatFXYN 0x8#4 x y 0xB#4
  | .undef8C x y => formatFXYN 0x8#4 x y 0xC#4
  | .undef8D x y => formatFXYN 0x8#4 x y 0xD#4
  | .undef8F x y => formatFXYN 0x8#4 x y 0xF#4
  | .undefE x kk => formatFXK 0xE#4 x kk
  | .undefF x kk => formatFXK 0xF#4 x kk

/-! ### The host's reading of a table word -/

/-- The byte at the lower address of an instruction word (R44). -/
def highByte (w : Word) : Byte := w.extractLsb' 8 8
/-- The byte at the higher address of an instruction word (R44). -/
def lowByte (w : Word) : Byte := w.extractLsb' 0 8

/-- The instruction that `decode` reads from the bytes of an opcode-table word, laid out big-endian.
A table word has 16 bits; a longer one is no instruction of this machine. -/
def decodeTableWord (nbits w : Nat) : Option Instr :=
  if nbits ≤ 16 then
    let word := BitVec.ofNat 16 (w % 2 ^ nbits)
    match decode [highByte word, lowByte word] with
    | .ok (i, _) => some i
    | .error _ => none
  else none

end Sys2Proof
end

