-- ==== Sys2Proof/Config.lean ====
section
/-! DEFINITION. What an implementation fixes: the constants of spec/00_scope.md R6, the types of the points
R7 leaves open (the model carries their values in `State.params`, assumption log 1), and the one free value,
the random byte of CXKK (R100, assumption log 2). -/

namespace Sys2Proof

/-- `MEM_SIZE` (R6): addresses 0x000 to 0xFFF name a byte. -/
abbrev Config.memSize : Nat := 4096

/-- `PROG_BASE` (R6): where a ROM is loaded, and the entry point. -/
abbrev Config.progBase : Nat := 0x200

/-- `MAX_ROM` (R6): the longest ROM the loader takes. -/
abbrev Config.maxRom : Nat := 3584

/-- The random byte that draw number `k` gives (`rand8()`, R100; `rand` of R7).
A FREE VALUE: it has no body, so nothing can be proved of it but what holds of every byte (assumption log 2). -/
opaque Config.rand : Nat → Byte

/-- `P_SHIFT_SRC` (R7, decision D5): the register that 8XY6 and 8XYE shift. -/
inductive ShiftSrc where
  | vx
  | vy
  deriving DecidableEq, Repr

/-- `P_LDST_I` (R7, decision D6): what FX55 and FX65 do to `I`. -/
inductive LdstI where
  | unchanged
  | advance
  deriving DecidableEq, Repr

/-- `P_VF_ORDER` (R7, R69, decision D3): whether the operands of a class-8 result are read before or after
the flag is written to VF. -/
inductive VfOrder where
  | sampleFirst
  | flagFirst
  deriving DecidableEq, Repr

/-- The 80-byte font table `FONT` (R7, R33): glyph `d` is bytes `5*d` to `5*d + 4`. -/
abbrev Font := Vector Byte 80

/-- The points that DOC leaves open and the model takes as named arguments (R7). -/
structure Params where
  /-- `P_SHIFT_SRC`. -/
  shiftSrc : ShiftSrc
  /-- `P_LDST_I`. -/
  ldstI    : LdstI
  /-- `P_VF_ORDER`. -/
  vfOrder  : VfOrder
  /-- `FONT`. -/
  font     : Font
  deriving DecidableEq, Repr

end Sys2Proof
end

