-- ==== Sys2Proof/Machine/Params.lean ====
section
/-! DEFINITION. The defaults of the points that spec/00_scope.md R7 leaves open. They are the spec's own
defaults (decisions D3, D5, D6, D14), and every test vector of spec/95_test_vectors.md uses them; the model's
statements quantify over every setting (assumption log 1). -/

namespace Sys2Proof.Machine

/-- The standard CHIP-8 font, the default of `FONT` (R33, decision D14; assumption log 4). -/
def defaultFont : Font := #v[
  0xF0, 0x90, 0x90, 0x90, 0xF0,  0x20, 0x60, 0x20, 0x20, 0x70,
  0xF0, 0x10, 0xF0, 0x80, 0xF0,  0xF0, 0x10, 0xF0, 0x10, 0xF0,
  0x90, 0x90, 0xF0, 0x10, 0x10,  0xF0, 0x80, 0xF0, 0x10, 0xF0,
  0xF0, 0x80, 0xF0, 0x90, 0xF0,  0xF0, 0x10, 0x20, 0x40, 0x40,
  0xF0, 0x90, 0xF0, 0x90, 0xF0,  0xF0, 0x90, 0xF0, 0x10, 0xF0,
  0xF0, 0x90, 0xF0, 0x90, 0x90,  0xE0, 0x90, 0xE0, 0x90, 0xE0,
  0xF0, 0x80, 0x80, 0x80, 0xF0,  0xE0, 0x90, 0x90, 0x90, 0xE0,
  0xF0, 0x80, 0xF0, 0x80, 0xF0,  0xF0, 0x80, 0xF0, 0x80, 0x80]

/-- The default of every parameter of R7 that the state carries. -/
def defaultParams : Params where
  shiftSrc := .vx
  ldstI    := .unchanged
  vfOrder  := .sampleFirst
  font     := defaultFont

end Sys2Proof.Machine
end

