-- ==== Sys2Proof/Machine/State.lean ====
section
/-! DEFINITION. The engine's state as plain data (spec/10_state.md R20 to R37), the outcomes that are not a
next state (spec/60_exceptions.md R114, R115), and the state after reset (R37, R131). -/

namespace Sys2Proof.Machine

/-- Why the engine takes no step. The three outcomes are the spec's own model outcomes, not behaviour of the
engine: it raises no exception (R113). -/
inductive Fault where
  /-- `Undefined(MemOutOfRange, a)`, raised by DXYN, FX33, FX55 and FX65 before any of their writes: `a` is the
  lowest address above 0xFFF, `word` the instruction, `at_` its address (R41, R114). Safe: the spec gives no
  effect here, and nothing can be proved of what the engine does. -/
  | memOutOfRange (a : Nat) (word : Word) (at_ : Word)
  /-- `Undefined(KeyIndexOutOfRange, k)`, raised by EX9E and EXA1 when Vx is above 0xF (R107, R108, R114).
  Safe, for the same reason. -/
  | keyIndexOutOfRange (k : Byte) (word : Word) (at_ : Word)
  /-- `stuck(FetchOutOfRange(pc))`, raised by a step whose `pc` is above 0xFFE (R66, R115): nothing changes and
  no step is enabled. Unsafe if the real engine goes on there (decision D9, assumption log 5). -/
  | fetchOutOfRange (pc : Word)
  deriving DecidableEq, Repr

/-- Why an instruction is given no meaning. No instruction of this model is refused. -/
inductive Refusal where
  /-- Raised by `exec` for an instruction that has no meaning yet. Safe. -/
  | notModelled (mnemonic : String)
  deriving DecidableEq, Repr

/-- Memory that is not listed reads as its reset contents (`resetByte`); a listed cell holds another byte. -/
abbrev Memory := List Host.Cell

/-- The framebuffer: 32 rows of 64 one-bit cells (R30). Cell (x, y) is bit `x` of row `y`
(assumption log 6: the representation; `readFb` gives the cells by the index `y*64 + x`). -/
abbrev Framebuffer := Vector (BitVec 64) 32

/-- The state of the engine: the tuple of R20, and under it the model's own fields. -/
structure State where
  /-- The general registers V0 to VF (R22); VF doubles as the flag (R23). -/
  V      : Vector Byte 16
  /-- The index register (R27). -/
  I      : Word
  /-- The program counter (R24). -/
  pc     : Word
  /-- The return stack (R28). -/
  stack  : Vector Word 16
  /-- How many stack entries are in use, 0 to 16 (R28). -/
  SP     : Fin 17
  /-- The delay timer (R29). -/
  DT     : Byte
  /-- The sound timer (R29). -/
  ST     : Byte
  /-- The framebuffer (R30). -/
  fb     : Framebuffer
  /-- The keypad: true is pressed (R31). -/
  key    : Vector Bool 16
  /-- The 4096 bytes of memory (R38). -/
  memory : Memory
  /-- MODEL FIELD, in place of the hidden `rng` (R34): how many random bytes were drawn so far. -/
  draws  : Nat
  /-- MODEL FIELD: the values of the points R7 leaves open; nothing changes them. -/
  params : Params
  /-- MODEL FIELD: the fault or stuck mark (R20, R114, R115), written by the host-level step alone. -/
  mark   : Option Fault
  deriving DecidableEq, Repr

/-- The state after reset, for given values of the open points (R37, R131). -/
def State.resetWith (p : Params) : State where
  V      := Vector.replicate 16 0#8
  I      := 0#16
  pc     := 0x200#16
  stack  := Vector.replicate 16 0#16
  SP     := 0
  DT     := 0#8
  ST     := 0#8
  fb     := Vector.replicate 32 0#64
  key    := Vector.replicate 16 false
  memory := []
  draws  := 0
  params := p
  mark   := none

/-- The state after reset with the spec's defaults (R7, R37, R131). -/
def State.reset : State := State.resetWith defaultParams

end Sys2Proof.Machine
end

