-- ==== Sys2Proof/Machine/Ops.lean ====
section
/-! DEFINITION. The named operations over registers and memory that every meaning goes through
(spec/00_scope.md R10, spec/20_memory.md R38 to R46, spec/40_step_cycle.md R65 to R67), and the one way to
raise a model outcome (spec/60_exceptions.md R114). The engine has no exceptions to take (R113, R117). -/

namespace Sys2Proof.Machine

/-- What one instruction, or one step, answers. -/
abbrev Out := Host.Outcome State Fault Refusal

/-! ### Memory (R38 to R43) -/

/-- What an address that memory does not list reads as: the reset contents, the font in 0x000 to 0x04F and 0
above it (R32, R37, R39). -/
def resetByte (font : Font) (a : Nat) : Byte :=
  if h : a < 80 then font[a] else 0#8

/-- The byte at an address (R42). Callers check first that the address is at most 0xFFF (R41). -/
def Memory.read (font : Font) : Memory → Nat → Byte
  | [], a => resetByte font a
  | (b, v) :: m, a => if a = b then v else Memory.read font m a

/-- Memory without a cell at `a`. -/
def Memory.erase (m : Memory) (a : Nat) : Memory := m.filter fun c => c.1 != a

/-- Memory with a cell at `a`, placed in address order. -/
def Memory.insert (a : Nat) (v : Byte) : Memory → Memory
  | [] => [(a, v)]
  | (b, w) :: m => if a < b then (a, v) :: (b, w) :: m else (b, w) :: Memory.insert a v m

/-- Memory with the byte `v` at `a` (R43), in canonical form: a byte equal to the reset contents is not listed. -/
def Memory.write (font : Font) (m : Memory) (a : Nat) (v : Byte) : Memory :=
  if v = resetByte font a then m.erase a else Memory.insert a v (m.erase a)

/-- The canonical form of memory: addresses in range (R38) and strictly rising, and no cell that holds what the
unlisted address reads as. -/
def Memory.wf (font : Font) : Memory → Bool
  | [] => true
  | (a, v) :: m =>
    decide (a < Config.memSize) && v != resetByte font a && m.all (fun c => decide (a < c.1)) && Memory.wf font m

/-! ### Registers (R22, R24, R27, R29) -/

/-- `V[r]`. -/
def State.getV (s : State) (r : Reg) : Byte := s.V[r.val]
/-- `V[r] <- b`. -/
def State.setV (s : State) (r : Reg) (b : Byte) : State := { s with V := s.V.set r.val b }
/-- `I <- a`. -/
def State.setI (s : State) (a : Word) : State := { s with I := a }
/-- `pc <- a`. -/
def State.setPc (s : State) (a : Word) : State := { s with pc := a }
/-- `DT <- b`. -/
def State.setDT (s : State) (b : Byte) : State := { s with DT := b }
/-- `ST <- b`. -/
def State.setST (s : State) (b : Byte) : State := { s with ST := b }
/-- The framebuffer becomes `fb`. -/
def State.setFb (s : State) (fb : Framebuffer) : State := { s with fb := fb }
/-- `key[k]`. -/
def State.getKey (s : State) (k : Key) : Bool := s.key[k.val]
/-- `key[k] <- b`; only the host does this (R125). -/
def State.setKey (s : State) (k : Key) (b : Bool) : State := { s with key := s.key.set k.val b }
/-- The mark becomes `m`; only the host-level step and reset do this (R114, R115, R131). -/
def State.setMark (s : State) (m : Option Fault) : State := { s with mark := m }
/-- `stack[j]`. -/
def State.getStack (s : State) (j : Fin 16) : Word := s.stack[j.val]

/-! ### The stack (R28) -/

/-- `Push(v)`, on a stack that is not full. -/
def State.push (s : State) (v : Word) (h : s.SP.val < 16) : State :=
  { s with stack := s.stack.set s.SP.val v, SP := ⟨s.SP.val + 1, by omega⟩ }

/-- The value that `Pop()` returns, on a stack that is not empty. -/
def State.top (s : State) (h : 0 < s.SP.val) : Word := s.stack[s.SP.val - 1]'(by omega)

/-- The state that `Pop()` leaves; the entry keeps its value (decision D19). -/
def State.pop (s : State) : State := { s with SP := ⟨s.SP.val - 1, by omega⟩ }

/-! ### Bytes of memory in the state (R41 to R43) -/

/-- `MemRead(a, 1)`, for `a` at most 0xFFF. -/
def State.readByte (s : State) (a : Nat) : Byte := s.memory.read s.params.font a

/-- `MemWrite(a, 1, b)`, for `a` at most 0xFFF. -/
def State.writeByte (s : State) (a : Nat) (b : Byte) : State :=
  { s with memory := s.memory.write s.params.font a b }

/-- The bytes of a list written to consecutive addresses, lowest first. -/
def State.writeBytes (s : State) (a : Nat) : List Byte → State
  | [] => s
  | b :: bs => (s.writeByte a b).writeBytes (a + 1) bs

/-- The bytes at `n` consecutive addresses, lowest first. -/
def State.readBytes (s : State) (a n : Nat) : List Byte := (List.range n).map fun k => s.readByte (a + k)

/-! ### The random byte (R100) -/

/-- The next byte of the `rand` oracle: a free value (assumption log 2). -/
def State.nextRand (s : State) : Byte := Config.rand s.draws
/-- The draw is taken: the next one is another. -/
def State.tookRand (s : State) : State := { s with draws := s.draws + 1 }

/-! ### The program counter and the fetch (R44, R65 to R67, R78) -/

/-- A fetch is defined: both bytes of the word lie in memory (R26, R66). -/
def State.canFetch (s : State) : Bool := decide (s.pc.toNat ≤ 0xFFE)

/-- The instruction word at `pc`, big-endian (R44). -/
def State.fetchWord (s : State) : Word :=
  wordOfBytes (s.readByte s.pc.toNat) (s.readByte (s.pc.toNat + 1))

/-- The advance, mod 2^16 (R67). -/
def State.advance (s : State) : State := s.setPc (s.pc + 2#16)

/-- A skip if `c` holds, on top of the advance (R78). -/
def State.skipIf (s : State) (c : Bool) : State := if c then s.setPc (s.pc + 2#16) else s

/-! ### Raising a model outcome (R114) -/

/-- `raise Undefined(reason)` in the instruction `i`: the reason records the instruction's word and its address,
`pc - 2` after the advance. No effect of the instruction remains (R70). -/
def raiseUndefined (reason : Word → Word → Fault) (i : Instr) (s : State) : Out :=
  .fault (reason (encode i) (s.pc - 2#16))

/-! ### Placing an instruction where the next step fetches it -/

/-- `s` able to fetch: no mark, and a `pc` at which a fetch is defined, the entry point 0x200 where it is not. -/
def State.readyToFetch (s : State) : State :=
  { s with pc := if s.canFetch then s.pc else BitVec.ofNat 16 Config.progBase, mark := none }

/-- The word `w` stored big-endian at `pc` (R44). -/
def State.placeWord (s : State) (w : Word) : State :=
  s.writeBytes s.pc.toNat [highByte w, lowByte w]

end Sys2Proof.Machine
end

