-- ==== Sys2Proof/Machine/Operands.lean ====
section
/-! DEFINITION. How the instructions form their operands (spec/30_encoding.md R57) and check them before any
write (spec/20_memory.md R41, spec/40_step_cycle.md R70). -/

namespace Sys2Proof.Machine

/-- VF, the flag register (R23). -/
def VF : Reg := 0xF

/-- `zext_16(nnn)` (R57). -/
def addrOf (nnn : Addr12) : Word := nnn.setWidth 16

/-- The source register of a shift (R97, parameter `P_SHIFT_SRC`). -/
def shiftSource (s : State) (x y : Reg) : Reg :=
  match s.params.shiftSrc with
  | .vx => x
  | .vy => y

/-- The lowest address above 0xFFF among the `len` addresses from `base`, if there is one (R76, R104, R105). -/
def lowestOutOfRange (base len : Nat) : Option Nat :=
  if 0 < len ∧ Config.memSize < base + len then some (max base Config.memSize) else none

/-- The key that a byte names, if it names one (R107). -/
def keyOf (b : Byte) : Option Key :=
  if h : b.toNat < 16 then some ⟨b.toNat, h⟩ else none

/-- The lowest-numbered pressed key, if any is pressed (R110). -/
def lowestPressed (s : State) : Option Key := (List.finRange 16).find? fun k => s.getKey k

/-- The decimal digits of a byte, hundreds first (R104). -/
def decimalDigits (b : Byte) : List Byte :=
  [BitVec.ofNat 8 (b.toNat / 100), BitVec.ofNat 8 (b.toNat / 10 % 10), BitVec.ofNat 8 (b.toNat % 10)]

/-- The address of the glyph of a digit: `V * 5`, with no mask (R103). -/
def glyphAddr (b : Byte) : Word := BitVec.ofNat 16 (b.toNat * 5)

/-- The registers V0 to Vx in order (R105). -/
def regsUpTo (s : State) (x : Reg) : List Byte :=
  (List.range (x.val + 1)).map fun j => s.getV (Fin.ofNat 16 j)

/-- V0, V1, … take the bytes of a list in order (R106). -/
def State.loadRegsFrom (s : State) (j : Nat) : List Byte → State
  | [] => s
  | b :: bs => (s.setV (Fin.ofNat 16 j) b).loadRegsFrom (j + 1) bs

/-- `I` after FX55 or FX65 moved V0 to Vx (R105, R106, parameter `P_LDST_I`). -/
def State.afterTransfer (s : State) (x : Reg) : State :=
  match s.params.ldstI with
  | .unchanged => s
  | .advance => s.setI (s.I + BitVec.ofNat 16 (x.val + 1))

end Sys2Proof.Machine
end

