-- ==== Sys2Proof/Machine/Flags.lean ====
section
/-! DEFINITION. The flags that the class-8 instructions write to VF (spec/43_alu.md R88, spec/10_state.md R23)
and the order of that write (spec/40_step_cycle.md R69). -/

namespace Sys2Proof.Machine

/-- A flag as VF holds it: 1 or 0. -/
def flagByte (c : Bool) : Byte := if c then 1#8 else 0#8

/-- Carry: the unsigned sum exceeds 255 (R95). -/
def carryFlag (a b : Byte) : Byte := flagByte (decide (255 < a.toNat + b.toNat))

/-- Not-borrow of `a - b`: the minuend is at least the subtrahend (R96, R98). -/
def notBorrowFlag (a b : Byte) : Byte := flagByte (decide (b.toNat ≤ a.toNat))

/-- The bit that a right shift drops (R97). -/
def lowBitFlag (a : Byte) : Byte := flagByte (a.getLsbD 0)

/-- The bit that a left shift drops (R99). -/
def highBitFlag (a : Byte) : Byte := flagByte (a.getLsbD 7)

/-- A class-8 operation with a flag (R69): the flag, from the registers at the start, goes to VF, then the result
goes to Vx. With `SAMPLE_FIRST` the result comes from the registers at the start, with `FLAG_FIRST` from the
registers after the flag was written. -/
def State.writeFlagged (s : State) (x : Reg) (flag result : State → Byte) : State :=
  let flagged := s.setV VF (flag s)
  flagged.setV x (match s.params.vfOrder with
    | .sampleFirst => result s
    | .flagFirst => result flagged)

end Sys2Proof.Machine
end

