-- ==== Sys2Proof/Machine/Alu.lean ====
section
/-! DEFINITION. The register and ALU instructions (spec/43_alu.md R88 to R100). -/

namespace Sys2Proof.Machine

/-- 6XKK LD (R89). -/
def execLdByte (x : Reg) (kk : Byte) (s : State) : Out := .next (s.setV x kk)

/-- 7XKK ADD (R90): no flag. -/
def execAddByte (x : Reg) (kk : Byte) (s : State) : Out := .next (s.setV x (s.getV x + kk))

/-- 8XY0 LD (R91). -/
def execLdReg (x y : Reg) (s : State) : Out := .next (s.setV x (s.getV y))

/-- 8XY1 OR (R92): no flag (decision D7). -/
def execOr (x y : Reg) (s : State) : Out := .next (s.setV x (s.getV x ||| s.getV y))

/-- 8XY2 AND (R93): no flag (decision D7). -/
def execAnd (x y : Reg) (s : State) : Out := .next (s.setV x (s.getV x &&& s.getV y))

/-- 8XY3 XOR (R94): no flag (decision D7). -/
def execXor (x y : Reg) (s : State) : Out := .next (s.setV x (s.getV x ^^^ s.getV y))

/-- 8XY4 ADD (R95): carry into VF. -/
def execAdd (x y : Reg) (s : State) : Out :=
  .next (s.writeFlagged x (fun r => carryFlag (r.getV x) (r.getV y)) (fun r => r.getV x + r.getV y))

/-- 8XY5 SUB (R96): not-borrow into VF. -/
def execSub (x y : Reg) (s : State) : Out :=
  .next (s.writeFlagged x (fun r => notBorrowFlag (r.getV x) (r.getV y)) (fun r => r.getV x - r.getV y))

/-- 8XY6 SHR (R97): the dropped bit into VF. -/
def execShr (x y : Reg) (s : State) : Out :=
  let src := shiftSource s x y
  .next (s.writeFlagged x (fun r => lowBitFlag (r.getV src)) (fun r => r.getV src >>> 1))

/-- 8XY7 SUBN (R98): not-borrow of the reverse subtraction into VF. -/
def execSubn (x y : Reg) (s : State) : Out :=
  .next (s.writeFlagged x (fun r => notBorrowFlag (r.getV y) (r.getV x)) (fun r => r.getV y - r.getV x))

/-- 8XYE SHL (R99): the dropped bit into VF. -/
def execShl (x y : Reg) (s : State) : Out :=
  let src := shiftSource s x y
  .next (s.writeFlagged x (fun r => highBitFlag (r.getV src)) (fun r => r.getV src <<< 1))

/-- CXKK RND (R100): a fresh draw, masked. -/
def execRnd (x : Reg) (kk : Byte) (s : State) : Out := .next (s.tookRand.setV x (s.nextRand &&& kk))

end Sys2Proof.Machine
end

