-- ==== Sys2Proof/Machine/Display.lean ====
section
/-! DEFINITION. The display instructions (spec/41_display.md R75, R76). -/

namespace Sys2Proof.Machine

/-- `fb[y*64 + x]` (R30). -/
def Framebuffer.cell (fb : Framebuffer) (x : Fin 64) (y : Fin 32) : Bool := fb[y.val].getLsbD x.val

/-- The cell at (x, y) toggled. -/
def Framebuffer.toggle (fb : Framebuffer) (x : Fin 64) (y : Fin 32) : Framebuffer :=
  fb.set y.val (fb[y.val] ^^^ BitVec.twoPow 64 x.val)

/-- The cell of the framebuffer at column `x` and row `y` (R30). -/
def State.pixel (s : State) (x : Fin 64) (y : Fin 32) : Bool := s.fb.cell x y

/-- A drawing in progress: the framebuffer, and whether a set cell was toggled so far. -/
structure Blit where
  fb  : Framebuffer
  hit : Bool
  deriving DecidableEq, Repr

/-- One sprite bit that is set, at column `px` and row `py` before wrapping (R76). -/
def Blit.plot (b : Blit) (px py : Nat) : Blit :=
  let x := Fin.ofNat 64 px
  let y := Fin.ofNat 32 py
  { fb := b.fb.toggle x y, hit := b.hit || b.fb.cell x y }

/-- One sprite row: bit `7 - c` of the byte is column `c` (R76, decision D13, assumption log 7). -/
def Blit.row (b : Blit) (bits : Byte) (bx py : Nat) : Blit :=
  (List.range 8).foldl (fun b c => if bits.getLsbD (7 - c) then b.plot (bx + c) py else b) b

/-- The rows of a sprite, downwards from row `py` (R76). -/
def Blit.rows (b : Blit) (bx py : Nat) : List Byte → Blit
  | [] => b
  | bits :: rest => (b.row bits bx py).rows bx (py + 1) rest

/-- 0XE0 CLS (R75): every cell becomes 0. -/
def execCls (_x : Reg) (s : State) : Out := .next (s.setFb (Vector.replicate 32 0#64))

/-- DXYN DRW (R76): the coordinates are read before VF is cleared, and every row address is checked first. -/
def execDrw (x y : Reg) (n : Nibble) (s : State) : Out :=
  match lowestOutOfRange s.I.toNat n.toNat with
  | some a => raiseUndefined (.memOutOfRange a) (.drw x y n) s
  | none =>
    let sprite := s.readBytes s.I.toNat n.toNat
    let drawn := Blit.rows ⟨s.fb, false⟩ (s.getV x).toNat (s.getV y).toNat sprite
    .next ((s.setFb drawn.fb).setV VF (flagByte drawn.hit))

end Sys2Proof.Machine
end

