-- ==== Sys2Proof/Machine/Flow.lean ====
section
/-! DEFINITION. The control-flow instructions (spec/42_flow.md R77 to R87). `pc` already holds the
instruction's address + 2. -/

namespace Sys2Proof.Machine

/-- 0NNN SYS (R79): a no-op. -/
def execSys (_nnn : Addr12) (s : State) : Out := .next s

/-- 0XEE RET (R80): on an empty stack nothing happens. -/
def execRet (_x : Reg) (s : State) : Out :=
  if h : 0 < s.SP.val then .next (s.pop.setPc (s.top h)) else .next s

/-- 1NNN JP (R81). -/
def execJp (nnn : Addr12) (s : State) : Out := .next (s.setPc (addrOf nnn))

/-- 2NNN CALL (R82): on a full stack the call is dropped. -/
def execCall (nnn : Addr12) (s : State) : Out :=
  if h : s.SP.val < 16 then .next ((s.push s.pc h).setPc (addrOf nnn)) else .next s

/-- 3XKK SE (R83). -/
def execSeByte (x : Reg) (kk : Byte) (s : State) : Out := .next (s.skipIf (s.getV x == kk))

/-- 4XKK SNE (R84). -/
def execSneByte (x : Reg) (kk : Byte) (s : State) : Out := .next (s.skipIf (s.getV x != kk))

/-- 5XYN SE (R85). -/
def execSeReg (x y : Reg) (_n : Nibble) (s : State) : Out := .next (s.skipIf (s.getV x == s.getV y))

/-- 9XYN SNE (R86). -/
def execSneReg (x y : Reg) (_n : Nibble) (s : State) : Out := .next (s.skipIf (s.getV x != s.getV y))

/-- BNNN JP V0 (R87): always V0, with no mask. -/
def execJpV0 (nnn : Addr12) (s : State) : Out :=
  .next (s.setPc (addrOf nnn + (s.getV 0).setWidth 16))

end Sys2Proof.Machine
end

