-- ==== Sys2Proof/Machine/IndexMemory.lean ====
section
/-! DEFINITION. The index-register and memory instructions (spec/44_index_memory.md R101 to R106). The only
addressing mode is `I` plus a constant offset; every address is checked before any write (R70). -/

namespace Sys2Proof.Machine

/-- ANNN LD I (R101). -/
def execLdI (nnn : Addr12) (s : State) : Out := .next (s.setI (addrOf nnn))

/-- FX1E ADD I (R102): mod 2^16, no flag. -/
def execAddI (x : Reg) (s : State) : Out := .next (s.setI (s.I + (s.getV x).setWidth 16))

/-- FX29 LD F (R103). -/
def execLdFont (x : Reg) (s : State) : Out := .next (s.setI (glyphAddr (s.getV x)))

/-- FX33 LD B (R104). -/
def execLdBcd (x : Reg) (s : State) : Out :=
  match lowestOutOfRange s.I.toNat 3 with
  | some a => raiseUndefined (.memOutOfRange a) (.ldBcd x) s
  | none => .next (s.writeBytes s.I.toNat (decimalDigits (s.getV x)))

/-- FX55 LD [I], Vx (R105). -/
def execStoreRegs (x : Reg) (s : State) : Out :=
  match lowestOutOfRange s.I.toNat (x.val + 1) with
  | some a => raiseUndefined (.memOutOfRange a) (.storeRegs x) s
  | none => .next ((s.writeBytes s.I.toNat (regsUpTo s x)).afterTransfer x)

/-- FX65 LD Vx, [I] (R106). -/
def execLoadRegs (x : Reg) (s : State) : Out :=
  match lowestOutOfRange s.I.toNat (x.val + 1) with
  | some a => raiseUndefined (.memOutOfRange a) (.loadRegs x) s
  | none => .next ((s.loadRegsFrom 0 (s.readBytes s.I.toNat (x.val + 1))).afterTransfer x)

end Sys2Proof.Machine
end

