-- ==== Sys2Proof/Machine/KeypadTimers.lean ====
section
/-! DEFINITION. The keypad and timer instructions (spec/45_keypad_timers.md R107 to R112). The keypad is read
as it stands when the step runs. -/

namespace Sys2Proof.Machine

/-- EX9E SKP (R107). -/
def execSkp (x : Reg) (s : State) : Out :=
  match keyOf (s.getV x) with
  | some k => .next (s.skipIf (s.getKey k))
  | none => raiseUndefined (.keyIndexOutOfRange (s.getV x)) (.skp x) s

/-- EXA1 SKNP (R108). -/
def execSknp (x : Reg) (s : State) : Out :=
  match keyOf (s.getV x) with
  | some k => .next (s.skipIf (!s.getKey k))
  | none => raiseUndefined (.keyIndexOutOfRange (s.getV x)) (.sknp x) s

/-- FX07 LD Vx, DT (R109). -/
def execLdDt (x : Reg) (s : State) : Out := .next (s.setV x s.DT)

/-- FX0A LD Vx, K (R110): with no key pressed `pc` goes back to this instruction. -/
def execLdKey (x : Reg) (s : State) : Out :=
  match lowestPressed s with
  | some k => .next (s.setV x (BitVec.ofNat 8 k.val))
  | none => .next (s.setPc (s.pc - 2#16))

/-- FX15 LD DT, Vx (R111). -/
def execSetDt (x : Reg) (s : State) : Out := .next (s.setDT (s.getV x))

/-- FX18 LD ST, Vx (R112). -/
def execSetSt (x : Reg) (s : State) : Out := .next (s.setST (s.getV x))

end Sys2Proof.Machine
end

