-- ==== Sys2Proof/Machine/UndefinedWords.lean ====
section
/-! DEFINITION. The undefined words (spec/30_encoding.md R61): each executes as a no-op, which leaves the state
as the advance made it (spec/40_step_cycle.md R71). -/

namespace Sys2Proof.Machine

/-- R71: after the fetch and the advance, nothing changes. -/
def noOp (s : State) : Out := .next s

/-- 8XY8 (R61, R71). -/
def execUndef88 (_x _y : Reg) (s : State) : Out := noOp s

/-- 8XY9 (R61, R71). -/
def execUndef89 (_x _y : Reg) (s : State) : Out := noOp s

/-- 8XYA (R61, R71). -/
def execUndef8A (_x _y : Reg) (s : State) : Out := noOp s

/-- 8XYB (R61, R71). -/
def execUndef8B (_x _y : Reg) (s : State) : Out := noOp s

/-- 8XYC (R61, R71). -/
def execUndef8C (_x _y : Reg) (s : State) : Out := noOp s

/-- 8XYD (R61, R71). -/
def execUndef8D (_x _y : Reg) (s : State) : Out := noOp s

/-- 8XYF (R61, R71). -/
def execUndef8F (_x _y : Reg) (s : State) : Out := noOp s

/-- EXkk with an undefined `kk` (R61, R71). -/
def execUndefE (_x : Reg) (_kk : Byte) (s : State) : Out := noOp s

/-- FXkk with an undefined `kk` (R61, R71). -/
def execUndefF (_x : Reg) (_kk : Byte) (s : State) : Out := noOp s

end Sys2Proof.Machine
end

