-- ==== Sys2Proof/Machine/Dispatch.lean ====
section
/-! DEFINITION. The dispatcher: one arm per instruction (spec/30_encoding.md R60). -/

namespace Sys2Proof.Machine

def exec (i : Instr) (s : State) : Host.Outcome State Fault Refusal :=
  match i with
  | .cls x => Sys2Proof.Machine.execCls x s
  | .ret x => Sys2Proof.Machine.execRet x s
  | .sys nnn => Sys2Proof.Machine.execSys nnn s
  | .jp nnn => Sys2Proof.Machine.execJp nnn s
  | .call nnn => Sys2Proof.Machine.execCall nnn s
  | .seByte x kk => Sys2Proof.Machine.execSeByte x kk s
  | .sneByte x kk => Sys2Proof.Machine.execSneByte x kk s
  | .seReg x y n => Sys2Proof.Machine.execSeReg x y n s
  | .ldByte x kk => Sys2Proof.Machine.execLdByte x kk s
  | .addByte x kk => Sys2Proof.Machine.execAddByte x kk s
  | .ldReg x y => Sys2Proof.Machine.execLdReg x y s
  | .orReg x y => Sys2Proof.Machine.execOr x y s
  | .andReg x y => Sys2Proof.Machine.execAnd x y s
  | .xorReg x y => Sys2Proof.Machine.execXor x y s
  | .addReg x y => Sys2Proof.Machine.execAdd x y s
  | .subReg x y => Sys2Proof.Machine.execSub x y s
  | .shrReg x y => Sys2Proof.Machine.execShr x y s
  | .subnReg x y => Sys2Proof.Machine.execSubn x y s
  | .shlReg x y => Sys2Proof.Machine.execShl x y s
  | .sneReg x y n => Sys2Proof.Machine.execSneReg x y n s
  | .ldI nnn => Sys2Proof.Machine.execLdI nnn s
  | .jpV0 nnn => Sys2Proof.Machine.execJpV0 nnn s
  | .rnd x kk => Sys2Proof.Machine.execRnd x kk s
  | .drw x y n => Sys2Proof.Machine.execDrw x y n s
  | .skp x => Sys2Proof.Machine.execSkp x s
  | .sknp x => Sys2Proof.Machine.execSknp x s
  | .ldDt x => Sys2Proof.Machine.execLdDt x s
  | .ldKey x => Sys2Proof.Machine.execLdKey x s
  | .setDt x => Sys2Proof.Machine.execSetDt x s
  | .setSt x => Sys2Proof.Machine.execSetSt x s
  | .addI x => Sys2Proof.Machine.execAddI x s
  | .ldFont x => Sys2Proof.Machine.execLdFont x s
  | .ldBcd x => Sys2Proof.Machine.execLdBcd x s
  | .storeRegs x => Sys2Proof.Machine.execStoreRegs x s
  | .loadRegs x => Sys2Proof.Machine.execLoadRegs x s
  | .undef88 x y => Sys2Proof.Machine.execUndef88 x y s
  | .undef89 x y => Sys2Proof.Machine.execUndef89 x y s
  | .undef8A x y => Sys2Proof.Machine.execUndef8A x y s
  | .undef8B x y => Sys2Proof.Machine.execUndef8B x y s
  | .undef8C x y => Sys2Proof.Machine.execUndef8C x y s
  | .undef8D x y => Sys2Proof.Machine.execUndef8D x y s
  | .undef8F x y => Sys2Proof.Machine.execUndef8F x y s
  | .undefE x kk => Sys2Proof.Machine.execUndefE x kk s
  | .undefF x kk => Sys2Proof.Machine.execUndefF x kk s

end Sys2Proof.Machine
end

