-- ==== Sys2Proof/Machine/Step.lean ====
section
/-! DEFINITION. One step of the engine (spec/40_step_cycle.md R65), and the placing of an instruction where the
next step fetches it. -/

namespace Sys2Proof.Machine

/-- `step()` (R65): a marked engine takes no step (R114); above 0xFFE the engine is stuck (R66); otherwise the
word at `pc` is fetched, `pc` advances, and the word's instruction runs. -/
def step (s : State) : Host.Outcome State Fault Refusal :=
  match s.mark with
  | some f => .fault f
  | none =>
    if s.canFetch then exec (decodeWord s.fetchWord) s.advance
    else .fault (.fetchOutOfRange s.pc)

/-- `s` with the table word `w` stored where `step` fetches its next instruction. -/
def State.withFetchWord (s : State) (nbits w : Nat) : State :=
  s.readyToFetch.placeWord (BitVec.ofNat 16 (w % 2 ^ nbits))

end Sys2Proof.Machine
end

