-- ==== Sys2Proof/Machine/HostOps.lean ====
section
/-! DEFINITION. The operations through which the host drives the engine (spec/70_reset_and_hazards.md R131 to
R136, spec/60_exceptions.md R114, R115, R121 to R128). Each is whole and none runs beside another (R47), so each
is a function of the state, and a schedule is a list of them (R136). -/

namespace Sys2Proof.Machine

/-! ### The timers (R121) -/

/-- A timer one tick later: it saturates at 0. -/
def tickDown (t : Byte) : Byte := if 0 < t.toNat then t - 1#8 else t

/-- `tick()` (R121). -/
def tick (s : State) : State := (s.setDT (tickDown s.DT)).setST (tickDown s.ST)

/-! ### Reset and load (R131, R134) -/

/-- `reset()` (R131): the reset state for the engine's own parameters. The draws go on counting, so that a byte
drawn after a reset is not one drawn before it (R132, assumption log 2). -/
def hostReset (s : State) : State := { State.resetWith s.params with draws := s.draws }

/-- Why the loader rejects a ROM (R134). -/
inductive LoadError where
  /-- The ROM is empty. -/
  | emptyInput
  /-- The ROM is longer than 3584 bytes. -/
  | tooLarge
  deriving DecidableEq, Repr

/-- What the loader says of a ROM, before the engine is invoked (R134). -/
def loadCheck (bytes : List Byte) : Option LoadError :=
  if bytes.length = 0 then some .emptyInput
  else if Config.maxRom < bytes.length then some .tooLarge
  else none

/-- `load(bytes)` (R134): a ROM the loader accepts is copied to 0x200; one it rejects writes nothing. -/
def load (bytes : List Byte) (s : State) : State :=
  match loadCheck bytes with
  | some _ => s
  | none => s.writeBytes Config.progBase bytes

/-! ### What the host reads (R123, R124, R128) -/

/-- `fb[j]` of the flat framebuffer: column `j mod 64` of row `j / 64` (R30). -/
def flatCell (s : State) (j : Nat) : Bool := s.pixel (Fin.ofNat 64 j) (Fin.ofNat 32 (j / 64))

/-- `readFb()`: the 2048 cells, by the index `y*64 + x` (R30, R124). -/
def readFb (s : State) : List Bool := (List.range 2048).map (flatCell s)

/-- `readSound()`: the tone plays (R123). -/
def readSound (s : State) : Bool := decide (0 < s.ST.toNat)

/-- What a trace observer is told of a step (R128, decision D26). -/
structure TraceNotice where
  /-- The fetched word. -/
  word     : Word
  /-- The state at the start of the step. -/
  snapshot : State
  deriving DecidableEq, Repr

/-- The notice of the step that starts in `s`: none where no word is fetched (R65, R128). -/
def traceNotice (s : State) : Option TraceNotice :=
  match s.mark with
  | some _ => none
  | none => if s.canFetch then some ⟨s.fetchWord, s⟩ else none

/-! ### The host-level step, with the mark (R66, R70, R114, R115) -/

/-- The engine after an outcome that is no next state: stuck, nothing but the mark changes (R66, R115); after
`Undefined`, the advance has happened and nothing else (R70, R114). -/
def markFault (s : State) (f : Fault) : State :=
  match f with
  | .fetchOutOfRange _ => s.setMark (some f)
  | .memOutOfRange _ _ _ => s.advance.setMark (some f)
  | .keyIndexOutOfRange _ _ _ => s.advance.setMark (some f)

/-- `step()` as the host calls it: the outcome is recorded, and a marked engine does not move (R114). -/
def hostStep (s : State) : State :=
  match s.mark with
  | some _ => s
  | none =>
    match step s with
    | .next t => t
    | .fault f => markFault s f
    | .refused _ => s

/-! ### The interface (R135) and a schedule (R136) -/

/-- The operations of R135 that change the state or read it. -/
inductive HostOp where
  /-- `step()`. -/
  | step
  /-- `tick()`. -/
  | tick
  /-- `reset()`. -/
  | reset
  /-- `load(bytes)`. -/
  | load (bytes : List Byte)
  /-- `setKey(k, pressed)` (R125). -/
  | setKey (k : Key) (pressed : Bool)
  /-- `readFb()`. -/
  | readFb
  /-- `readSound()`. -/
  | readSound
  deriving DecidableEq, Repr

/-- What an operation hands to the host or the observer. -/
inductive HostOutput where
  /-- Nothing. -/
  | nothing
  /-- The trace notice of a step, if it sends one (R128). -/
  | trace (notice : Option TraceNotice)
  /-- The loader's error, if it raises one (R134). -/
  | loader (error : Option LoadError)
  /-- The framebuffer (R124). -/
  | cells (fb : List Bool)
  /-- Whether the tone plays (R123). -/
  | sound (active : Bool)
  deriving DecidableEq, Repr

/-- The state after one host operation (R135). -/
def HostOp.apply (op : HostOp) (s : State) : State :=
  match op with
  | .step => hostStep s
  | .tick => Sys2Proof.Machine.tick s
  | .reset => hostReset s
  | .load bytes => Sys2Proof.Machine.load bytes s
  | .setKey k pressed => s.setKey k pressed
  | .readFb => s
  | .readSound => s

/-- What one host operation hands out (R135). -/
def HostOp.output (op : HostOp) (s : State) : HostOutput :=
  match op with
  | .step => .trace (traceNotice s)
  | .tick => .nothing
  | .reset => .nothing
  | .load bytes => .loader (loadCheck bytes)
  | .setKey _ _ => .nothing
  | .readFb => .cells (Sys2Proof.Machine.readFb s)
  | .readSound => .sound (Sys2Proof.Machine.readSound s)

/-- The state after a schedule: any finite sequence of host operations (R136). -/
def runSchedule (s : State) : List HostOp → State
  | [] => s
  | op :: ops => runSchedule (op.apply s) ops

/-- The state after the first `n` operations of an infinite schedule (R136). -/
def stateAt (schedule : Nat → HostOp) (s : State) : Nat → State
  | 0 => s
  | n + 1 => (schedule n).apply (stateAt schedule s n)

/-- The fairness premise of R136: the host ticks infinitely often. -/
def TicksForever (schedule : Nat → HostOp) : Prop := ∀ n, ∃ m, n ≤ m ∧ schedule m = .tick

end Sys2Proof.Machine
end

