-- ==== Sys2Proof/Safety.lean ====
section
/-! DEFINITION. The terms in which claims are made: the components of the state and the frame of a change, the
footprint of each instruction, and the invariant of every run. -/

namespace Sys2Proof.Machine

/-! ### Components and frames -/

/-- One piece of the state that can change or stay: a register, a stack entry, a pixel, a key, a byte of memory
(R20), and the model's own fields. -/
inductive Component where
  | V (r : Reg)
  | I
  | pc
  | stack (j : Fin 16)
  | SP
  | DT
  | ST
  | pixel (x : Fin 64) (y : Fin 32)
  | key (k : Key)
  | byte (a : Nat)
  | draws
  | params
  | mark
  deriving DecidableEq, Repr

/-- `t` holds in the component `c` what `s` holds there. -/
def SameAt (s t : State) : Component → Prop
  | .V r => t.getV r = s.getV r
  | .I => t.I = s.I
  | .pc => t.pc = s.pc
  | .stack j => t.getStack j = s.getStack j
  | .SP => t.SP = s.SP
  | .DT => t.DT = s.DT
  | .ST => t.ST = s.ST
  | .pixel x y => t.pixel x y = s.pixel x y
  | .key k => t.getKey k = s.getKey k
  | .byte a => t.readByte a = s.readByte a
  | .draws => t.draws = s.draws
  | .params => t.params = s.params
  | .mark => t.mark = s.mark

/-- The frame of a change: outside the components that `changed` names, `t` is `s`. -/
def Frame (changed : Component → Prop) (s t : State) : Prop :=
  ∀ c, ¬ changed c → SameAt s t c

/-- The byte addresses `a` to `a + n - 1`. -/
def bytesFrom (a n : Nat) (c : Component) : Prop := ∃ k, k < n ∧ c = .byte (a + k)

/-- Every pixel. -/
def anyPixel (c : Component) : Prop := ∃ x y, c = .pixel x y

/-- V0 to Vx. -/
def upToV (x : Reg) (c : Component) : Prop := ∃ r : Reg, r ≤ x ∧ c = .V r

/-- `I`, where FX55 and FX65 advance it (parameter `P_LDST_I`, R105, R106). -/
def ldstI (s : State) (c : Component) : Prop := c = .I ∧ s.params.ldstI = .advance

/-- What the spec lets the instruction `i`, run in the state `s` (with `pc` past the instruction), change
(R23, R24, R27 to R31, R35, R46). -/
def footprint (i : Instr) (s : State) (c : Component) : Prop :=
  match i with
  | .cls _ => anyPixel c
  | .ret _ => (c = .pc ∨ c = .SP) ∧ 0 < s.SP.val
  | .sys _ => False
  | .jp _ => c = .pc
  | .call _ => (c = .pc ∨ c = .SP ∨ ∃ j : Fin 16, j.val = s.SP.val ∧ c = .stack j) ∧ s.SP.val < 16
  | .seByte _ _ => c = .pc
  | .sneByte _ _ => c = .pc
  | .seReg _ _ _ => c = .pc
  | .ldByte x _ => c = .V x
  | .addByte x _ => c = .V x
  | .ldReg x _ => c = .V x
  | .orReg x _ => c = .V x
  | .andReg x _ => c = .V x
  | .xorReg x _ => c = .V x
  | .addReg x _ => c = .V x ∨ c = .V VF
  | .subReg x _ => c = .V x ∨ c = .V VF
  | .shrReg x _ => c = .V x ∨ c = .V VF
  | .subnReg x _ => c = .V x ∨ c = .V VF
  | .shlReg x _ => c = .V x ∨ c = .V VF
  | .sneReg _ _ _ => c = .pc
  | .ldI _ => c = .I
  | .jpV0 _ => c = .pc
  | .rnd x _ => c = .V x ∨ c = .draws
  | .drw _ _ _ => c = .V VF ∨ anyPixel c
  | .skp _ => c = .pc
  | .sknp _ => c = .pc
  | .ldDt x => c = .V x
  | .ldKey x => c = .V x ∨ c = .pc
  | .setDt _ => c = .DT
  | .setSt _ => c = .ST
  | .addI _ => c = .I
  | .ldFont _ => c = .I
  | .ldBcd _ => bytesFrom s.I.toNat 3 c
  | .storeRegs x => bytesFrom s.I.toNat (x.val + 1) c ∨ ldstI s c
  | .loadRegs x => upToV x c ∨ ldstI s c
  | .undef88 _ _ => False
  | .undef89 _ _ => False
  | .undef8A _ _ => False
  | .undef8B _ _ => False
  | .undef8C _ _ => False
  | .undef8D _ _ => False
  | .undef8F _ _ => False
  | .undefE _ _ => False
  | .undefF _ _ => False

/-! ### The outcomes that are no next state (R114, R116) -/

/-- Which model outcome, if any, the instruction `i` raises in `s` (the table of R114, in the order of R116):
the two keypad tests check the key number, the four instructions that access memory check their addresses. -/
def undefinedOutcome (i : Instr) (s : State) : Option Fault :=
  match i with
  | .skp x | .sknp x =>
    if 0xF < (s.getV x).toNat then some (.keyIndexOutOfRange (s.getV x) (encode i) (s.pc - 2#16)) else none
  | .drw _ _ n =>
    if 0 < n.toNat ∧ 0xFFF < s.I.toNat + (n.toNat - 1)
    then some (.memOutOfRange (max s.I.toNat 0x1000) (encode i) (s.pc - 2#16)) else none
  | .ldBcd _ =>
    if 0xFFF < s.I.toNat + 2
    then some (.memOutOfRange (max s.I.toNat 0x1000) (encode i) (s.pc - 2#16)) else none
  | .storeRegs x | .loadRegs x =>
    if 0xFFF < s.I.toNat + x.val
    then some (.memOutOfRange (max s.I.toNat 0x1000) (encode i) (s.pc - 2#16)) else none
  | .cls _ | .ret _ | .sys _ | .jp _ | .call _ | .seByte _ _ | .sneByte _ _ | .seReg _ _ _ | .ldByte _ _
  | .addByte _ _ | .ldReg _ _ | .orReg _ _ | .andReg _ _ | .xorReg _ _ | .addReg _ _ | .subReg _ _
  | .shrReg _ _ | .subnReg _ _ | .shlReg _ _ | .sneReg _ _ _ | .ldI _ | .jpV0 _ | .rnd _ _ | .ldDt _ | .ldKey _
  | .setDt _ | .setSt _ | .addI _ | .ldFont _ | .undef88 _ _ | .undef89 _ _ | .undef8A _ _ | .undef8B _ _
  | .undef8C _ _ | .undef8D _ _ | .undef8F _ _ | .undefE _ _ | .undefF _ _ => none

/-- An outcome with its next state changed by `g`. -/
def Out.mapNext (g : State → State) : Out → Out
  | .next t => .next (g t)
  | .fault f => .fault f
  | .refused r => .refused r

/-! ### The invariant of every run -/

/-- Memory is in canonical form; `pc` is at most 0x10FE and every stack entry at most 0x1000 (R24). -/
structure State.Inv (s : State) : Prop where
  memory_wf   : s.memory.wf s.params.font = true
  pc_le       : s.pc.toNat ≤ 0x10FE
  stack_le    : ∀ j : Fin 16, (s.getStack j).toNat ≤ 0x1000


end Sys2Proof.Machine
end

