-- ==== Sys2Proof/Certificates/Slice0/Obligations.lean ====
section
/-! DEFINITION. The statements for the provers. Each says what a numbered rule of spec/, or several, say of the
machine; the terms `Component`, `Frame`, `footprint`, `undefinedOutcome` and `State.Inv` are in Safety.lean. A
statement about `exec` speaks of the state after the advance: `pc` already holds the instruction's address + 2
(spec/40_step_cycle.md R74). Every statement holds for every value of the points that spec/00_scope.md R7 leaves
open: they are fields of the state. -/

open Sys2Proof Sys2Proof.Machine

namespace Sys2Proof.Spec

/-- The word `n` decodes to the instruction `i`. -/
def Encodes (n : Nat) (i : Instr) : Prop := decodeWord (BitVec.ofNat 16 n) = i

/-- A row of spec/opcode_table.json, with the instruction that its words stand for. -/
structure TableRow where
  pattern : Word
  mask    : Word
  build   : Word → Instr

/-- Rows 1 to 15 of spec/opcode_table.json. -/
def tableRows1 : List TableRow := [
  ⟨0x00E0, 0xF0FF, fun w => .cls (xOf w)⟩,
  ⟨0x00EE, 0xF0FF, fun w => .ret (xOf w)⟩,
  ⟨0x0000, 0xF000, fun w => .sys (nnnOf w)⟩,
  ⟨0x1000, 0xF000, fun w => .jp (nnnOf w)⟩,
  ⟨0x2000, 0xF000, fun w => .call (nnnOf w)⟩,
  ⟨0x3000, 0xF000, fun w => .seByte (xOf w) (kkOf w)⟩,
  ⟨0x4000, 0xF000, fun w => .sneByte (xOf w) (kkOf w)⟩,
  ⟨0x5000, 0xF000, fun w => .seReg (xOf w) (yOf w) (nOf w)⟩,
  ⟨0x6000, 0xF000, fun w => .ldByte (xOf w) (kkOf w)⟩,
  ⟨0x7000, 0xF000, fun w => .addByte (xOf w) (kkOf w)⟩,
  ⟨0x8000, 0xF00F, fun w => .ldReg (xOf w) (yOf w)⟩,
  ⟨0x8001, 0xF00F, fun w => .orReg (xOf w) (yOf w)⟩,
  ⟨0x8002, 0xF00F, fun w => .andReg (xOf w) (yOf w)⟩,
  ⟨0x8003, 0xF00F, fun w => .xorReg (xOf w) (yOf w)⟩,
  ⟨0x8004, 0xF00F, fun w => .addReg (xOf w) (yOf w)⟩]

/-- Rows 16 to 30. -/
def tableRows2 : List TableRow := [
  ⟨0x8005, 0xF00F, fun w => .subReg (xOf w) (yOf w)⟩,
  ⟨0x8006, 0xF00F, fun w => .shrReg (xOf w) (yOf w)⟩,
  ⟨0x8007, 0xF00F, fun w => .subnReg (xOf w) (yOf w)⟩,
  ⟨0x800E, 0xF00F, fun w => .shlReg (xOf w) (yOf w)⟩,
  ⟨0x9000, 0xF000, fun w => .sneReg (xOf w) (yOf w) (nOf w)⟩,
  ⟨0xA000, 0xF000, fun w => .ldI (nnnOf w)⟩,
  ⟨0xB000, 0xF000, fun w => .jpV0 (nnnOf w)⟩,
  ⟨0xC000, 0xF000, fun w => .rnd (xOf w) (kkOf w)⟩,
  ⟨0xD000, 0xF000, fun w => .drw (xOf w) (yOf w) (nOf w)⟩,
  ⟨0xE09E, 0xF0FF, fun w => .skp (xOf w)⟩,
  ⟨0xE0A1, 0xF0FF, fun w => .sknp (xOf w)⟩,
  ⟨0xF007, 0xF0FF, fun w => .ldDt (xOf w)⟩,
  ⟨0xF00A, 0xF0FF, fun w => .ldKey (xOf w)⟩,
  ⟨0xF015, 0xF0FF, fun w => .setDt (xOf w)⟩,
  ⟨0xF018, 0xF0FF, fun w => .setSt (xOf w)⟩]

/-- Rows 31 to 44. -/
def tableRows3 : List TableRow := [
  ⟨0xF01E, 0xF0FF, fun w => .addI (xOf w)⟩,
  ⟨0xF029, 0xF0FF, fun w => .ldFont (xOf w)⟩,
  ⟨0xF033, 0xF0FF, fun w => .ldBcd (xOf w)⟩,
  ⟨0xF055, 0xF0FF, fun w => .storeRegs (xOf w)⟩,
  ⟨0xF065, 0xF0FF, fun w => .loadRegs (xOf w)⟩,
  ⟨0x8008, 0xF00F, fun w => .undef88 (xOf w) (yOf w)⟩,
  ⟨0x8009, 0xF00F, fun w => .undef89 (xOf w) (yOf w)⟩,
  ⟨0x800A, 0xF00F, fun w => .undef8A (xOf w) (yOf w)⟩,
  ⟨0x800B, 0xF00F, fun w => .undef8B (xOf w) (yOf w)⟩,
  ⟨0x800C, 0xF00F, fun w => .undef8C (xOf w) (yOf w)⟩,
  ⟨0x800D, 0xF00F, fun w => .undef8D (xOf w) (yOf w)⟩,
  ⟨0x800F, 0xF00F, fun w => .undef8F (xOf w) (yOf w)⟩,
  ⟨0xE000, 0xF000, fun w => .undefE (xOf w) (kkOf w)⟩,
  ⟨0xF000, 0xF000, fun w => .undefF (xOf w) (kkOf w)⟩]

/-- The whole table, in its own order: a fallback row stands after the rows it falls back from. -/
def opcodeTable : List TableRow := tableRows1 ++ tableRows2 ++ tableRows3

/-- The words that execute as no-ops (R61, R79), by their class, low byte and low nibble as numbers. -/
def IsNoOpWord (w : Word) : Prop :=
  let cls := w.toNat / 4096
  let kk := w.toNat % 256
  let n := w.toNat % 16
  (cls = 0x0 ∧ kk ≠ 0xE0 ∧ kk ≠ 0xEE) ∨
  (cls = 0x8 ∧ n ∈ [0x8, 0x9, 0xA, 0xB, 0xC, 0xD, 0xF]) ∨
  (cls = 0xE ∧ kk ≠ 0x9E ∧ kk ≠ 0xA1) ∨
  (cls = 0xF ∧ kk ∉ [0x07, 0x0A, 0x15, 0x18, 0x1E, 0x29, 0x33, 0x55, 0x65])

/-- A sprite bit that is set lands on the cell (px, py): row `r` of `n` rows at `I`, column `c`, drawn at
(`bx`, `by_`) with wrap (R76; bit `7 - c` is column `c`, decision D13). -/
def SpriteCovers (s : State) (n bx by_ : Nat) (px : Fin 64) (py : Fin 32) : Prop :=
  ∃ r c, r < n ∧ c < 8 ∧ (s.readByte (s.I.toNat + r)).getLsbD (7 - c) = true ∧
    px.val = (bx + c) % 64 ∧ py.val = (by_ + r) % 32

/-- The value of register `r` that the result of a class-8 operation is computed from, when the flag `f` goes to
VF first (R69): the register at the start, or under `FLAG_FIRST` the flag where the register is VF. -/
def resultOperand (s : State) (r : Reg) (f : Nat) : Nat :=
  if s.params.vfOrder = .flagFirst ∧ r = VF then f else (s.getV r).toNat

/-- The register a shift reads (R97, parameter `P_SHIFT_SRC`). -/
def shiftReg (s : State) (x y : Reg) : Reg := if s.params.shiftSrc = .vy then y else x

/-- How many bytes at `I` an instruction accesses (R46); none for an instruction that accesses no memory. -/
def bytesAtI : Instr → Option Nat
  | .drw _ _ n => some n.toNat
  | .ldBcd _ => some 3
  | .storeRegs x => some (x.val + 1)
  | .loadRegs x => some (x.val + 1)
  | _ => none

end Sys2Proof.Spec

open Sys2Proof.Spec

/-! ### Encoding -/

/-- R55, R56, R60: the word of a well-formed instruction decodes to it, with every operand. -/
def Obligations.DecodeOfEncodeIsTheInstruction : Prop :=
  ∀ i : Instr, i.WellFormed → decodeWord (encode i) = i

/-- R58, R60, R61: every word is a well-formed instruction, and no bit of it is lost. -/
def Obligations.EveryWordIsOneWellFormedInstruction : Prop :=
  ∀ w : Word, (decodeWord w).WellFormed ∧ encode (decodeWord w) = w

/-- R60 and spec/opcode_table.json: the decoder gives what the first matching row of the table gives. Class 0
ignores `x`: decision D4, assumption log 3. -/
def Obligations.DecoderAgreesWithTheOpcodeTable : Prop :=
  ∀ w : Word, (opcodeTable.find? fun r => w &&& r.mask == r.pattern).map (fun r => r.build w) = some (decodeWord w)

/-- R55: the six fields are the bits that the rule names, and overlap as it says. -/
def Obligations.FieldsAreTheirBits : Prop :=
  ∀ w : Word,
    (opOf w).toNat = w.toNat / 4096 ∧ (xOf w).val = w.toNat / 256 % 16 ∧ (yOf w).val = w.toNat / 16 % 16 ∧
    (nOf w).toNat = w.toNat % 16 ∧ (kkOf w).toNat = w.toNat % 256 ∧ (nnnOf w).toNat = w.toNat % 4096 ∧
    (kkOf w).toNat = (yOf w).val * 16 + (nOf w).toNat ∧ (nnnOf w).toNat = (xOf w).val * 256 + (kkOf w).toNat

/-- Twelve words written out from the formats of R56 and the map of R60 decode to what they stand for; another one is
read from its bytes in big-endian order, with the byte after it left over; a single byte is no instruction. -/
def Obligations.WordsOfEachFamilyDecode : Prop :=
  decodeWord 0x00E0#16 = .cls 0x0 ∧ decodeWord 0xD125#16 = .drw 0x1 0x2 0x5#4 ∧
  decodeWord 0x00EE#16 = .ret 0x0 ∧ decodeWord 0x2210#16 = .call 0x210#12 ∧ decodeWord 0x4ABC#16 = .sneByte 0xA 0xBC#8 ∧
  decodeWord 0x8F14#16 = .addReg 0xF 0x1 ∧ decodeWord 0x812E#16 = .shlReg 0x1 0x2 ∧
  decodeWord 0xF255#16 = .storeRegs 0x2 ∧ decodeWord 0xE5A1#16 = .sknp 0x5 ∧ decodeWord 0xF10A#16 = .ldKey 0x1 ∧
  decodeWord 0x8AB8#16 = .undef88 0xA 0xB ∧ decodeWord 0x0000#16 = .sys 0x000#12 ∧
  decode [0x6A#8, 0x05#8, 0xFA#8] = .ok (.ldByte 0xA 0x05#8, [0xFA#8]) ∧ decode [0x6A#8] = .error .truncated

/-- R62: the bits that no rule reads do not change what an instruction does. -/
def Obligations.UnreadBitsHaveNoEffect : Prop :=
  ∀ (s : State) (x x' y y' : Reg) (n n' : Nibble),
    exec (.cls x) s = exec (.cls x') s ∧ exec (.ret x) s = exec (.ret x') s ∧
    exec (.seReg x y n) s = exec (.seReg x y n') s ∧ exec (.sneReg x y n) s = exec (.sneReg x y n') s ∧
    (s.params.shiftSrc = .vx →
      exec (.shrReg x y) s = exec (.shrReg x y') s ∧ exec (.shlReg x y) s = exec (.shlReg x y') s)

/-! ### The step cycle and the model outcomes -/

/-- R65, R67: an unmarked engine whose `pc` is at most 0xFFE fetches the big-endian word at `pc` (R44), and its
step is the decoded instruction run with `pc` advanced by 2, mod 2^16 (decision D21). -/
def Obligations.StepRunsTheDecodedInstruction : Prop :=
  ∀ s : State, s.mark = none → s.pc.toNat ≤ 0xFFE →
    ∃ w : Word,
      w.toNat = (s.readByte s.pc.toNat).toNat * 256 + (s.readByte (s.pc.toNat + 1)).toNat ∧
      (decodeWord w).WellFormed ∧
      step s = exec (decodeWord w) { s with pc := BitVec.ofNat 16 ((s.pc.toNat + 2) % 2 ^ 16) }

/-- R66, R115 (decision D9, assumption log 5): with `pc` above 0xFFE the step changes nothing, sends no trace
notice and marks the engine stuck; no operation but reset clears the mark, and `tick` keeps running. -/
def Obligations.FetchPastMemoryIsStuck : Prop :=
  ∀ s : State, s.mark = none → 0xFFE < s.pc.toNat →
    step s = .fault (.fetchOutOfRange s.pc) ∧ traceNotice s = none ∧
    hostStep s = { s with mark := some (.fetchOutOfRange s.pc) } ∧
    (∀ op, op ≠ HostOp.reset → (op.apply (hostStep s)).mark = some (.fetchOutOfRange s.pc)) ∧
    (HostOp.reset.apply (hostStep s)).mark = none ∧
    (HostOp.tick.apply (hostStep s)).DT.toNat = s.DT.toNat - 1 ∧
    (HostOp.tick.apply (hostStep s)).ST.toNat = s.ST.toNat - 1

/-- R114 (decision D22): a marked engine takes no step, whatever the host does, until reset. -/
def Obligations.AMarkEndsTheRunUntilReset : Prop :=
  ∀ (s : State) (f : Fault), s.mark = some f →
    step s = .fault f ∧ hostStep s = s ∧ (hostReset s).mark = none ∧
    ∀ ops : List HostOp, HostOp.reset ∉ ops →
      (runSchedule s ops).mark = some f ∧ step (runSchedule s ops) = .fault f

/-- R70 (decision D22): an instruction that raises `Undefined` leaves the advance and the record of the fault, and
the engine makes no further step. -/
def Obligations.UndefinedLeavesOnlyTheAdvance : Prop :=
  ∀ (s : State) (f : Fault), s.mark = none → s.pc.toNat ≤ 0xFFE → step s = .fault f →
    hostStep s = { s with pc := s.pc + 2#16, mark := some f } ∧ step (hostStep s) = .fault f

/-- R116 with the table of R114: an instruction that the table names raises its outcome, with the recorded values,
and every other one, like those on good operands, completes. -/
def Obligations.EveryInstructionCompletesOrRaisesItsOutcome : Prop :=
  ∀ (i : Instr) (s : State),
    (undefinedOutcome i s = none → ∃ t, exec i s = .next t) ∧
    (∀ f, undefinedOutcome i s = some f → exec i s = .fault f)

/-- R113, R114, R115: a step is never refused, and a fault of an unmarked engine is one of the two outcomes. -/
def Obligations.NoStepIsRefused : Prop :=
  ∀ s : State, s.mark = none →
    (∃ t, step s = .next t) ∨
    (0xFFE < s.pc.toNat ∧ step s = .fault (.fetchOutOfRange s.pc)) ∨
    (s.pc.toNat ≤ 0xFFE ∧ ∃ f, undefinedOutcome (decodeWord s.fetchWord) s.advance = some f ∧ step s = .fault f)

/-- R41 (decision D8): of the instructions that access memory at `I`, one whose block leaves 0x000 to 0xFFF reports
the lowest address outside, with its own word and address, and one whose block does not completes. -/
def Obligations.MemoryBlocksAreCheckedFirst : Prop :=
  ∀ (i : Instr) (s : State) (len : Nat), bytesAtI i = some len →
    (∀ a, s.I.toNat ≤ a → a < s.I.toNat + len → 0xFFF < a → (∀ b, s.I.toNat ≤ b → b < a → b ≤ 0xFFF) →
      exec i s = .fault (.memOutOfRange a (encode i) (s.pc - 2#16))) ∧
    ((∀ a, s.I.toNat ≤ a → a < s.I.toNat + len → a ≤ 0xFFF) → ∃ t, exec i s = .next t)

/-- R71, R79: SYS and the undefined words are no-ops: the instruction changes nothing, and a step over such a word
changes nothing but `pc`. -/
def Obligations.SysAndUndefinedWordsAreNoOps : Prop :=
  (∀ (s : State) (nnn : Addr12) (x y : Reg) (kk : Byte),
    exec (.sys nnn) s = .next s ∧ exec (.undef88 x y) s = .next s ∧ exec (.undef89 x y) s = .next s ∧
    exec (.undef8A x y) s = .next s ∧ exec (.undef8B x y) s = .next s ∧ exec (.undef8C x y) s = .next s ∧
    exec (.undef8D x y) s = .next s ∧ exec (.undef8F x y) s = .next s ∧ exec (.undefE x kk) s = .next s ∧
    exec (.undefF x kk) s = .next s) ∧
  (∀ s : State, s.mark = none → s.pc.toNat ≤ 0xFFE → IsNoOpWord s.fetchWord →
    step s = .next { s with pc := s.pc + 2#16 })

/-- R72: a step that leaves `pc` where it was ran FX0A with no key pressed, or an instruction that assigns `pc`. -/
def Obligations.OnlyKeyWaitAndJumpsRepeat : Prop :=
  ∀ s t : State, step s = .next t → t.pc = s.pc →
    (∃ x, decodeWord s.fetchWord = .ldKey x ∧ ∀ k, s.getKey k = false) ∨
    (∃ nnn, decodeWord s.fetchWord = .jp nnn ∨ decodeWord s.fetchWord = .call nnn ∨
      decodeWord s.fetchWord = .jpV0 nnn) ∨
    (∃ x, decodeWord s.fetchWord = .ret x)

/-- The host's placing of a table word: the very next step runs what the decoder reads from it, and nothing else
changes but what the fetch needs (assumption log 8). -/
def Obligations.APlacedWordIsTheNextInstruction : Prop :=
  ∀ (s : State) (nbits w : Nat), nbits ≤ 16 →
    ∃ i, decodeTableWord nbits w = some i ∧ encode i = BitVec.ofNat 16 (w % 2 ^ nbits) ∧
      step (s.withFetchWord nbits w) = exec i (s.withFetchWord nbits w).advance ∧
      Frame (fun c => c = .mark ∨ (c = .pc ∧ 0xFFE < s.pc.toNat) ∨
        bytesFrom (s.withFetchWord nbits w).pc.toNat 2 c) s (s.withFetchWord nbits w)

/-! ### Display -/

/-- R75: CLS clears every cell and changes nothing else. -/
def Obligations.ClearSetsEveryCellToZero : Prop :=
  ∀ (s : State) (x : Reg), Encodes (x.val * 0x100 + 0xE0) (.cls x) ∧
    ∃ t, exec (.cls x) s = .next t ∧ (∀ px py, t.pixel px py = false) ∧ Frame anyPixel s t

/-- R76: DRW toggles exactly the cells that set sprite bits land on, with wrap, and VF says whether one of them was
set; the coordinates are read before VF is written (decision D3), and a row outside memory is reported first
(decision D8). Bit 7 is column 0 (decision D13, assumption log 7). -/
def Obligations.DrawTogglesTheSpriteCells : Prop :=
  ∀ (s : State) (x y : Reg) (n : Nibble),
    Encodes (0xD000 + x.val * 0x100 + y.val * 0x10 + n.toNat) (.drw x y n) ∧
    let covers := SpriteCovers s n.toNat (s.getV x).toNat (s.getV y).toNat
    (n.toNat = 0 ∨ s.I.toNat + n.toNat ≤ 0x1000 →
      ∃ t, exec (.drw x y n) s = .next t ∧
        (∀ px py, t.pixel px py = true ↔ (s.pixel px py = true ↔ ¬ covers px py)) ∧
        ((∃ px py, covers px py ∧ s.pixel px py = true) → t.getV VF = 1#8) ∧
        ((¬ ∃ px py, covers px py ∧ s.pixel px py = true) → t.getV VF = 0#8) ∧
        Frame (fun c => c = .V VF ∨ anyPixel c) s t) ∧
    (0 < n.toNat → 0x1000 < s.I.toNat + n.toNat →
      exec (.drw x y n) s = .fault (.memOutOfRange (max s.I.toNat 0x1000) (encode (.drw x y n)) (s.pc - 2#16)))

/-- R76, corner case "Self-inverse", and W4: a second draw of the same sprite at the same place restores the
framebuffer, and its flag is 1 exactly where the first draw set a pixel. -/
def Obligations.DrawingTwiceRestoresTheFramebuffer : Prop :=
  ∀ (s t u : State) (x y x' y' : Reg) (n : Nibble),
    exec (.drw x y n) s = .next t →
    u.fb = t.fb → u.I = s.I → u.getV x' = s.getV x → u.getV y' = s.getV y →
    (∀ a, u.readByte a = s.readByte a) →
    ∃ v, exec (.drw x' y' n) u = .next v ∧ (∀ px py, v.pixel px py = s.pixel px py) ∧
      (v.getV VF = 1#8 ↔ ∃ px py, s.pixel px py = false ∧ t.pixel px py = true)

/-! ### Control flow -/

/-- R80: RET pops the return address where the stack is not empty, and does nothing where it is. The popped entry
keeps its value (decision D19). -/
def Obligations.ReturnPopsTheStack : Prop :=
  ∀ (s : State) (x : Reg), Encodes (x.val * 0x100 + 0xEE) (.ret x) ∧
    (s.SP.val = 0 → exec (.ret x) s = .next s) ∧
    (∀ j : Fin 16, s.SP.val = j.val + 1 →
      ∃ t, exec (.ret x) s = .next t ∧ t.SP.val = j.val ∧ t.pc = s.getStack j ∧
        Frame (fun c => c = .pc ∨ c = .SP) s t)

/-- R81: JP sets `pc` to the address. -/
def Obligations.JumpSetsPc : Prop :=
  ∀ (s : State) (nnn : Addr12), Encodes (0x1000 + nnn.toNat) (.jp nnn) ∧
    ∃ t, exec (.jp nnn) s = .next t ∧ t.pc.toNat = nnn.toNat ∧ Frame (· = .pc) s t

/-- R87: JP V0 sets `pc` to the address plus V0, unmasked and without overflow. -/
def Obligations.JumpV0AddsV0 : Prop :=
  ∀ (s : State) (nnn : Addr12), Encodes (0xB000 + nnn.toNat) (.jpV0 nnn) ∧
    ∃ t, exec (.jpV0 nnn) s = .next t ∧ t.pc.toNat = nnn.toNat + (s.getV 0).toNat ∧ t.pc.toNat ≤ 0x10FE ∧
      Frame (· = .pc) s t

/-- R82: CALL pushes the address after itself and jumps; on a full stack the call is dropped. -/
def Obligations.CallPushesOrIsDropped : Prop :=
  ∀ (s : State) (nnn : Addr12), Encodes (0x2000 + nnn.toNat) (.call nnn) ∧
    (s.SP.val = 16 → exec (.call nnn) s = .next s) ∧
    (∀ j : Fin 16, s.SP.val = j.val →
      ∃ t, exec (.call nnn) s = .next t ∧ t.getStack j = s.pc ∧ t.SP.val = j.val + 1 ∧ t.pc.toNat = nnn.toNat ∧
        Frame (fun c => c = .pc ∨ c = .SP ∨ c = .stack j) s t)

/-- W6: a RET that finds the stack as a CALL left it returns to the word after the CALL, and the stack is as it was
before the CALL below SP. -/
def Obligations.CallThenReturnComesBack : Prop :=
  ∀ (s t u : State) (nnn : Addr12) (x : Reg), s.SP.val < 16 → exec (.call nnn) s = .next t →
    u.SP = t.SP → u.stack = t.stack →
    ∃ v, exec (.ret x) u = .next v ∧ v.pc = s.pc ∧ v.SP = s.SP ∧
      ∀ j : Fin 16, j.val < s.SP.val → v.getStack j = s.getStack j

/-- R83 to R86, R78: the compare-and-skip instructions pass over one word exactly when their condition holds. That the
skip is mod 2^16 is decision D21 (assumption log 16). -/
def Obligations.CompareSkipsPassOneWord : Prop :=
  ∀ (s : State) (x y : Reg) (kk : Byte) (n : Nibble),
    let skipped := (s.pc.toNat + 2) % 2 ^ 16
    (Encodes (0x3000 + x.val * 0x100 + kk.toNat) (.seByte x kk) ∧
      ∃ t, exec (.seByte x kk) s = .next t ∧
        t.pc.toNat = (if (s.getV x).toNat = kk.toNat then skipped else s.pc.toNat) ∧ Frame (· = .pc) s t) ∧
    (Encodes (0x4000 + x.val * 0x100 + kk.toNat) (.sneByte x kk) ∧
      ∃ t, exec (.sneByte x kk) s = .next t ∧
        t.pc.toNat = (if (s.getV x).toNat = kk.toNat then s.pc.toNat else skipped) ∧ Frame (· = .pc) s t) ∧
    (Encodes (0x5000 + x.val * 0x100 + y.val * 0x10 + n.toNat) (.seReg x y n) ∧
      ∃ t, exec (.seReg x y n) s = .next t ∧
        t.pc.toNat = (if (s.getV x).toNat = (s.getV y).toNat then skipped else s.pc.toNat) ∧
        Frame (· = .pc) s t) ∧
    (Encodes (0x9000 + x.val * 0x100 + y.val * 0x10 + n.toNat) (.sneReg x y n) ∧
      ∃ t, exec (.sneReg x y n) s = .next t ∧
        t.pc.toNat = (if (s.getV x).toNat = (s.getV y).toNat then s.pc.toNat else skipped) ∧
        Frame (· = .pc) s t)

/-! ### Registers and the ALU -/

/-- R89, R90, R91: the loads of Vx from a byte, from a byte added mod 256, and from Vy; no flag. -/
def Obligations.RegisterLoadsWriteOneRegister : Prop :=
  ∀ (s : State) (x y : Reg) (kk : Byte),
    (Encodes (0x6000 + x.val * 0x100 + kk.toNat) (.ldByte x kk) ∧
      ∃ t, exec (.ldByte x kk) s = .next t ∧ t.getV x = kk ∧ Frame (· = .V x) s t) ∧
    (Encodes (0x7000 + x.val * 0x100 + kk.toNat) (.addByte x kk) ∧
      ∃ t, exec (.addByte x kk) s = .next t ∧ (t.getV x).toNat = ((s.getV x).toNat + kk.toNat) % 256 ∧
        Frame (· = .V x) s t) ∧
    (Encodes (0x8000 + x.val * 0x100 + y.val * 0x10) (.ldReg x y) ∧
      ∃ t, exec (.ldReg x y) s = .next t ∧ t.getV x = s.getV y ∧ Frame (· = .V x) s t)

/-- R92, R93, R94: OR, AND and XOR bit by bit; VF is not written as a flag (decision D7). -/
def Obligations.BitwiseOperationsActBitByBit : Prop :=
  ∀ (s : State) (x y : Reg),
    (Encodes (0x8001 + x.val * 0x100 + y.val * 0x10) (.orReg x y) ∧
      ∃ t, exec (.orReg x y) s = .next t ∧ Frame (· = .V x) s t ∧
        ∀ b < 8, (t.getV x).getLsbD b = ((s.getV x).getLsbD b || (s.getV y).getLsbD b)) ∧
    (Encodes (0x8002 + x.val * 0x100 + y.val * 0x10) (.andReg x y) ∧
      ∃ t, exec (.andReg x y) s = .next t ∧ Frame (· = .V x) s t ∧
        ∀ b < 8, (t.getV x).getLsbD b = ((s.getV x).getLsbD b && (s.getV y).getLsbD b)) ∧
    (Encodes (0x8003 + x.val * 0x100 + y.val * 0x10) (.xorReg x y) ∧
      ∃ t, exec (.xorReg x y) s = .next t ∧ Frame (· = .V x) s t ∧
        ∀ b < 8, (t.getV x).getLsbD b = ((s.getV x).getLsbD b ^^ (s.getV y).getLsbD b))

/-- R95: ADD, with the carry into VF before the result goes to Vx, for both orders of R69. -/
def Obligations.AddSetsTheCarry : Prop :=
  ∀ (s : State) (x y : Reg), Encodes (0x8004 + x.val * 0x100 + y.val * 0x10) (.addReg x y) ∧
    let f := if 255 < (s.getV x).toNat + (s.getV y).toNat then 1 else 0
    ∃ t, exec (.addReg x y) s = .next t ∧
      (t.getV x).toNat = (resultOperand s x f + resultOperand s y f) % 256 ∧
      (x ≠ VF → (t.getV VF).toNat = f) ∧ Frame (fun c => c = .V x ∨ c = .V VF) s t

/-- R96: SUB, with not-borrow into VF before the result goes to Vx, for both orders of R69. -/
def Obligations.SubSetsNotBorrow : Prop :=
  ∀ (s : State) (x y : Reg), Encodes (0x8005 + x.val * 0x100 + y.val * 0x10) (.subReg x y) ∧
    let f := if (s.getV y).toNat ≤ (s.getV x).toNat then 1 else 0
    ∃ t, exec (.subReg x y) s = .next t ∧
      (t.getV x).toNat = (resultOperand s x f + 256 - resultOperand s y f) % 256 ∧
      (x ≠ VF → (t.getV VF).toNat = f) ∧ Frame (fun c => c = .V x ∨ c = .V VF) s t

/-- R98: SUBN, the reverse subtraction, for both orders of R69. -/
def Obligations.SubnSetsNotBorrow : Prop :=
  ∀ (s : State) (x y : Reg), Encodes (0x8007 + x.val * 0x100 + y.val * 0x10) (.subnReg x y) ∧
    let f := if (s.getV x).toNat ≤ (s.getV y).toNat then 1 else 0
    ∃ t, exec (.subnReg x y) s = .next t ∧
      (t.getV x).toNat = (resultOperand s y f + 256 - resultOperand s x f) % 256 ∧
      (x ≠ VF → (t.getV VF).toNat = f) ∧ Frame (fun c => c = .V x ∨ c = .V VF) s t

/-- R97: SHR of the register that `P_SHIFT_SRC` names, the dropped bit into VF, for both orders of R69. -/
def Obligations.ShiftRightDropsTheLowBit : Prop :=
  ∀ (s : State) (x y : Reg), Encodes (0x8006 + x.val * 0x100 + y.val * 0x10) (.shrReg x y) ∧
    let src := shiftReg s x y
    let f := (s.getV src).toNat % 2
    ∃ t, exec (.shrReg x y) s = .next t ∧ (t.getV x).toNat = resultOperand s src f / 2 ∧
      (x ≠ VF → (t.getV VF).toNat = f) ∧ Frame (fun c => c = .V x ∨ c = .V VF) s t

/-- R99: SHL of the register that `P_SHIFT_SRC` names, the dropped bit into VF, for both orders of R69. -/
def Obligations.ShiftLeftDropsTheHighBit : Prop :=
  ∀ (s : State) (x y : Reg), Encodes (0x800E + x.val * 0x100 + y.val * 0x10) (.shlReg x y) ∧
    let src := shiftReg s x y
    let f := (s.getV src).toNat / 128
    ∃ t, exec (.shlReg x y) s = .next t ∧ (t.getV x).toNat = resultOperand s src f * 2 % 256 ∧
      (x ≠ VF → (t.getV VF).toNat = f) ∧ Frame (fun c => c = .V x ∨ c = .V VF) s t

/-- R100: RND masks a fresh draw. The draw is a free value: the statement holds for every value of it, and the next
draw is another (assumption log 2). -/
def Obligations.RandomByteIsMasked : Prop :=
  ∀ (s : State) (x : Reg) (kk : Byte), Encodes (0xC000 + x.val * 0x100 + kk.toNat) (.rnd x kk) ∧
    ∃ t, exec (.rnd x kk) s = .next t ∧ t.getV x = Config.rand s.draws &&& kk ∧ t.draws = s.draws + 1 ∧
      t.getV x &&& ~~~kk = 0#8 ∧ Frame (fun c => c = .V x ∨ c = .draws) s t

/-! ### The index register and memory -/

/-- R101, R103: LD I loads the address, LD F the unmasked glyph address. -/
def Obligations.IndexLoadsWriteI : Prop :=
  ∀ (s : State) (nnn : Addr12) (x : Reg),
    (Encodes (0xA000 + nnn.toNat) (.ldI nnn) ∧
      ∃ t, exec (.ldI nnn) s = .next t ∧ t.I.toNat = nnn.toNat ∧ Frame (· = .I) s t) ∧
    (Encodes (0xF029 + x.val * 0x100) (.ldFont x) ∧
      ∃ t, exec (.ldFont x) s = .next t ∧ t.I.toNat = (s.getV x).toNat * 5 ∧ Frame (· = .I) s t)

/-- R102: ADD I wraps at 2^16 only (decision D15), and writes no flag. -/
def Obligations.AddToIndexWrapsAtSixteenBits : Prop :=
  ∀ (s : State) (x : Reg), Encodes (0xF01E + x.val * 0x100) (.addI x) ∧
    ∃ t, exec (.addI x) s = .next t ∧ t.I.toNat = (s.I.toNat + (s.getV x).toNat) % 2 ^ 16 ∧ Frame (· = .I) s t

/-- R104: LD B stores the hundreds, tens and units digit at I, I+1 and I+2, or reports the lowest address outside
memory and stores nothing (decisions D8, D16). -/
def Obligations.DecimalDigitsAreStored : Prop :=
  ∀ (s : State) (x : Reg), Encodes (0xF033 + x.val * 0x100) (.ldBcd x) ∧
    (s.I.toNat + 2 ≤ 0xFFF →
      ∃ t, exec (.ldBcd x) s = .next t ∧
        (t.readByte s.I.toNat).toNat = (s.getV x).toNat / 100 ∧
        (t.readByte (s.I.toNat + 1)).toNat = (s.getV x).toNat / 10 % 10 ∧
        (t.readByte (s.I.toNat + 2)).toNat = (s.getV x).toNat % 10 ∧
        Frame (bytesFrom s.I.toNat 3) s t) ∧
    (0xFFF < s.I.toNat + 2 →
      exec (.ldBcd x) s = .fault (.memOutOfRange (max s.I.toNat 0x1000) (encode (.ldBcd x)) (s.pc - 2#16)))

/-- R105: LD [I], Vx stores V0 to Vx at I, I+1, …, advances I where `P_LDST_I` says so (decision D6), or reports the
lowest address outside memory and stores nothing (decision D8). -/
def Obligations.RegistersAreStored : Prop :=
  ∀ (s : State) (x : Reg), Encodes (0xF055 + x.val * 0x100) (.storeRegs x) ∧
    (s.I.toNat + x.val ≤ 0xFFF →
      ∃ t, exec (.storeRegs x) s = .next t ∧
        (∀ r : Reg, r ≤ x → t.readByte (s.I.toNat + r.val) = s.getV r) ∧
        (s.params.ldstI = .unchanged → t.I = s.I) ∧
        (s.params.ldstI = .advance → t.I.toNat = (s.I.toNat + x.val + 1) % 2 ^ 16) ∧
        Frame (fun c => c = .I ∨ bytesFrom s.I.toNat (x.val + 1) c) s t) ∧
    (0xFFF < s.I.toNat + x.val →
      exec (.storeRegs x) s =
        .fault (.memOutOfRange (max s.I.toNat 0x1000) (encode (.storeRegs x)) (s.pc - 2#16)))

/-- R106: LD Vx, [I] loads V0 to Vx from I, I+1, …, advances I where `P_LDST_I` says so (decision D6), or reports
the lowest address outside memory and loads nothing (decision D8). -/
def Obligations.RegistersAreLoaded : Prop :=
  ∀ (s : State) (x : Reg), Encodes (0xF065 + x.val * 0x100) (.loadRegs x) ∧
    (s.I.toNat + x.val ≤ 0xFFF →
      ∃ t, exec (.loadRegs x) s = .next t ∧
        (∀ r : Reg, r ≤ x → t.getV r = s.readByte (s.I.toNat + r.val)) ∧
        (s.params.ldstI = .unchanged → t.I = s.I) ∧
        (s.params.ldstI = .advance → t.I.toNat = (s.I.toNat + x.val + 1) % 2 ^ 16) ∧
        Frame (fun c => c = .I ∨ upToV x c) s t) ∧
    (0xFFF < s.I.toNat + x.val →
      exec (.loadRegs x) s =
        .fault (.memOutOfRange (max s.I.toNat 0x1000) (encode (.loadRegs x)) (s.pc - 2#16)))

/-- R105 and R106 together: registers stored at `I` come back from there, whatever the registers hold meanwhile. -/
def Obligations.StoredRegistersComeBack : Prop :=
  ∀ (s t u : State) (x : Reg), exec (.storeRegs x) s = .next t → u.I = s.I →
    (∀ a, u.readByte a = t.readByte a) →
    ∃ v, exec (.loadRegs x) u = .next v ∧ (∀ r : Reg, r ≤ x → v.getV r = s.getV r) ∧
      ∀ r : Reg, x < r → v.getV r = u.getV r

/-! ### Keypad and timers -/

/-- R107, R108: SKP and SKNP test the present state of the key that Vx names; a number above 0xF is reported
(decision D11). -/
def Obligations.KeySkipsTestTheKey : Prop :=
  ∀ (s : State) (x : Reg),
    let skipped := (s.pc.toNat + 2) % 2 ^ 16
    Encodes (0xE09E + x.val * 0x100) (.skp x) ∧ Encodes (0xE0A1 + x.val * 0x100) (.sknp x) ∧
    (∀ k : Key, (s.getV x).toNat = k.val →
      (∃ t, exec (.skp x) s = .next t ∧
        t.pc.toNat = (if s.getKey k = true then skipped else s.pc.toNat) ∧ Frame (· = .pc) s t) ∧
      (∃ t, exec (.sknp x) s = .next t ∧
        t.pc.toNat = (if s.getKey k = true then s.pc.toNat else skipped) ∧ Frame (· = .pc) s t)) ∧
    (0xF < (s.getV x).toNat →
      exec (.skp x) s = .fault (.keyIndexOutOfRange (s.getV x) (encode (.skp x)) (s.pc - 2#16)) ∧
      exec (.sknp x) s = .fault (.keyIndexOutOfRange (s.getV x) (encode (.sknp x)) (s.pc - 2#16)))

/-- R109, R111, R112: the transfers between Vx and the timers. -/
def Obligations.TimerTransfersCopyTheByte : Prop :=
  ∀ (s : State) (x : Reg),
    (Encodes (0xF007 + x.val * 0x100) (.ldDt x) ∧
      ∃ t, exec (.ldDt x) s = .next t ∧ t.getV x = s.DT ∧ Frame (· = .V x) s t) ∧
    (Encodes (0xF015 + x.val * 0x100) (.setDt x) ∧
      ∃ t, exec (.setDt x) s = .next t ∧ t.DT = s.getV x ∧ Frame (· = .DT) s t) ∧
    (Encodes (0xF018 + x.val * 0x100) (.setSt x) ∧
      ∃ t, exec (.setSt x) s = .next t ∧ t.ST = s.getV x ∧ Frame (· = .ST) s t)

/-- R110 (decision D12): LD Vx, K latches the lowest pressed key; with none pressed, `pc` goes back by 2 and nothing
else changes. -/
def Obligations.KeyWaitLatchesTheLowestKey : Prop :=
  ∀ (s : State) (x : Reg), Encodes (0xF00A + x.val * 0x100) (.ldKey x) ∧
    (∀ k : Key, s.getKey k = true → (∀ j : Key, j < k → s.getKey j = false) →
      ∃ t, exec (.ldKey x) s = .next t ∧ (t.getV x).toNat = k.val ∧ Frame (· = .V x) s t) ∧
    ((∀ k : Key, s.getKey k = false) →
      ∃ t, exec (.ldKey x) s = .next t ∧ t.pc.toNat = (s.pc.toNat + 2 ^ 16 - 2) % 2 ^ 16 ∧ Frame (· = .pc) s t)

/-! ### What the host does -/

/-- R121: a tick decrements both timers, each saturating at 0, marked or not, and changes nothing else. -/
def Obligations.TickDecrementsBothTimers : Prop :=
  ∀ s : State, (tick s).DT.toNat = s.DT.toNat - 1 ∧ (tick s).ST.toNat = s.ST.toNat - 1 ∧
    Frame (fun c => c = .DT ∨ c = .ST) s (tick s)

/-- R37, R131: every piece of state after reset. The keypad is released by decision D20; the draw counter and the
parameters are the model's own (assumption log 1 and 2), and reset keeps them. -/
def Obligations.ResetSetsEveryComponent : Prop :=
  ∀ s : State,
    (∀ r, (hostReset s).getV r = 0#8) ∧ (hostReset s).I = 0#16 ∧ (hostReset s).pc = 0x200#16 ∧
    (hostReset s).SP = 0 ∧ (∀ j, (hostReset s).getStack j = 0#16) ∧ (hostReset s).DT = 0#8 ∧
    (hostReset s).ST = 0#8 ∧ (∀ x y, (hostReset s).pixel x y = false) ∧
    (∀ k, (hostReset s).getKey k = false) ∧ (hostReset s).mark = none ∧
    (∀ a (h : a < 80), (hostReset s).readByte a = s.params.font[a]) ∧
    (∀ a, 0x50 ≤ a → a ≤ 0xFFF → (hostReset s).readByte a = 0#8) ∧
    (hostReset s).params = s.params ∧ (hostReset s).draws = s.draws

/-- R132: two resets in a row give the state that one gives, and a reset engine of the default parameters is the
model's reset state but for the draws. -/
def Obligations.ResetIsIdempotent : Prop :=
  ∀ s : State, hostReset (hostReset s) = hostReset s ∧
    (s.params = defaultParams → { hostReset s with draws := 0 } = State.reset)

/-- R134 (decision D24): a ROM of 1 to 3584 bytes is copied verbatim to 0x200 and nothing else changes; another one
is rejected by its error and changes nothing. -/
def Obligations.LoadCopiesTheRom : Prop :=
  ∀ (s : State) (rom : List Byte),
    (rom.length = 0 → loadCheck rom = some .emptyInput ∧ load rom s = s) ∧
    (3584 < rom.length → loadCheck rom = some .tooLarge ∧ load rom s = s) ∧
    (0 < rom.length → rom.length ≤ 3584 →
      loadCheck rom = none ∧ (∀ j (h : j < rom.length), (load rom s).readByte (0x200 + j) = rom[j]) ∧
      Frame (bytesFrom 0x200 rom.length) s (load rom s))

/-- R123, R124, R125: the host writes one key and nothing else; the sound output is `ST > 0`; the framebuffer is
read by the index `y*64 + x` (R30, R135), over the model's own representation (assumption log 6); reading changes
nothing. -/
def Obligations.HostReadsAndKeyWrites : Prop :=
  ∀ (s : State) (k : Key) (b : Bool),
    (HostOp.apply (.setKey k b) s).getKey k = b ∧ Frame (· = .key k) s (HostOp.apply (.setKey k b) s) ∧
    (HostOp.apply .readFb s = s ∧ HostOp.apply .readSound s = s) ∧
    (readSound s = true ↔ s.ST.toNat ≠ 0) ∧
    (readFb s).length = 2048 ∧
    ∀ (x : Fin 64) (y : Fin 32), (readFb s)[y.val * 64 + x.val]? = some (s.pixel x y)

/-- R128 (decision D26): a step that fetches sends one notice, of the fetched word and the state at the start; a
step that does not fetch sends none. -/
def Obligations.TraceNoticeIsTheWordAndTheStartState : Prop :=
  ∀ s : State,
    (s.mark = none → s.pc.toNat ≤ 0xFFE →
      ∃ w : Word, traceNotice s = some ⟨w, s⟩ ∧
        w.toNat = (s.readByte s.pc.toNat).toNat * 256 + (s.readByte (s.pc.toNat + 1)).toNat) ∧
    (0xFFE < s.pc.toNat → traceNotice s = none) ∧ (s.mark ≠ none → traceNotice s = none)

/-! ### The whole machine -/

/-- Nothing changes outside the footprint that R23, R24, R27 to R31 and R46 give the instruction: no instruction
writes the keypad, a timer but by FX15 and FX18, memory but by FX33 and FX55, or the framebuffer but by CLS and DRW.
That OR, AND and XOR leave VF alone is decision D7 (assumption log 13), that RET keeps the popped entry decision D19
(assumption log 15). -/
def Obligations.EveryInstructionStaysInItsFootprint : Prop :=
  ∀ (i : Instr) (s t : State), exec i s = .next t → Frame (footprint i s) s t

/-- R29, R122: no instruction reads the sound timer: with another value in it, every instruction does the same to
everything else, and only FX18 changes it. -/
def Obligations.NoInstructionReadsTheSoundTimer : Prop :=
  ∀ (i : Instr) (s : State) (b : Byte),
    ((∀ x, i ≠ .setSt x) → exec i (s.setST b) = Out.mapNext (fun t => t.setST b) (exec i s)) ∧
    (∀ x, i = .setSt x → exec i (s.setST b) = exec i s)

/-- R28, R34 (decision D19): no instruction can read a stack entry at an index of SP or above: with other values in
those entries every instruction does the same, and the entries below the new SP still agree. -/
def Obligations.NoInstructionReadsAPoppedEntry : Prop :=
  ∀ (i : Instr) (s s' : State), s' = { s with stack := s'.stack } →
    (∀ j : Fin 16, j.val < s.SP.val → s'.getStack j = s.getStack j) →
    match exec i s with
    | .next t => ∃ t', exec i s' = .next t' ∧ t' = { t with stack := t'.stack } ∧
        ∀ j : Fin 16, j.val < t.SP.val → t'.getStack j = t.getStack j
    | .fault f => exec i s' = .fault f
    | .refused r => exec i s' = .refused r

/-- Equal memories are equal data: two memories in canonical form that read the same at every address are the same
list. -/
def Obligations.CanonicalMemoryIsUnique : Prop :=
  ∀ (font : Font) (m m' : Memory), m.wf font = true → m'.wf font = true →
    (∀ a, m.read font a = m'.read font a) → m = m'

/-- The invariant holds after reset, for all values of the open points. -/
def Obligations.TheInvariantHoldsAtReset : Prop :=
  ∀ p : Params, (State.resetWith p).Inv

/-- Every step keeps the invariant: memory stays in canonical form, `pc` stays at most 0x10FE and every stack entry at
most 0x1000 (R24). -/
def Obligations.EveryStepKeepsTheInvariant : Prop :=
  ∀ s t : State, s.Inv → step s = .next t → t.Inv

/-- Every operation of the host keeps it too (R135), the step with its fault marks among them. -/
def Obligations.EveryHostOperationKeepsTheInvariant : Prop :=
  ∀ (op : HostOp) (s : State), s.Inv → (op.apply s).Inv

/-- R24, R36: in every state that the host can reach by any schedule, `pc` is at most 0x10FE, memory is canonical, and
the parameters are those of the reset.
The clause on the parameters is the model's own (assumption log 1); the bound on `pc` rests on decision D9 (assumption
log 5). -/
def Obligations.EveryReachableStateIsBounded : Prop :=
  ∀ (p : Params) (ops : List HostOp),
    (runSchedule (State.resetWith p) ops).Inv ∧ (runSchedule (State.resetWith p) ops).params = p

/-- R115, R121, R136: while a stuck or faulted engine is not reset, `tick` keeps running; so if the host ticks infinitely
often, from some point on the delay timer is 0 and the sound output is silent. The mark is the model's (decisions D9,
D22). -/
def Obligations.TimersRunOutOnAMarkedEngine : Prop :=
  ∀ (schedule : Nat → HostOp) (s : State), s.mark ≠ none → TicksForever schedule →
    (∀ n, schedule n ≠ HostOp.reset) →
    ∃ n, ∀ m, n ≤ m → (stateAt schedule s m).DT = 0#8 ∧ readSound (stateAt schedule s m) = false
end

