-- ==== Sys2Proof/Laws/State.lean ====
section
/-! SUPPORT. The fields of the state after each named update: one lemma per field per update, true by rfl, so
that no later proof unfolds a record update; then the accessors after each update. -/

namespace Sys2Proof.Machine

variable (s : State)

/-! ### Fields after updates -/

@[simp] theorem State.setV_V (r : Reg) (b : Byte) : (s.setV r b).V = s.V.set r.val b := rfl
@[simp] theorem State.setV_I (r : Reg) (b : Byte) : (s.setV r b).I = s.I := rfl
@[simp] theorem State.setV_pc (r : Reg) (b : Byte) : (s.setV r b).pc = s.pc := rfl
@[simp] theorem State.setV_stack (r : Reg) (b : Byte) : (s.setV r b).stack = s.stack := rfl
@[simp] theorem State.setV_SP (r : Reg) (b : Byte) : (s.setV r b).SP = s.SP := rfl
@[simp] theorem State.setV_DT (r : Reg) (b : Byte) : (s.setV r b).DT = s.DT := rfl
@[simp] theorem State.setV_ST (r : Reg) (b : Byte) : (s.setV r b).ST = s.ST := rfl
@[simp] theorem State.setV_fb (r : Reg) (b : Byte) : (s.setV r b).fb = s.fb := rfl
@[simp] theorem State.setV_key (r : Reg) (b : Byte) : (s.setV r b).key = s.key := rfl
@[simp] theorem State.setV_memory (r : Reg) (b : Byte) : (s.setV r b).memory = s.memory := rfl
@[simp] theorem State.setV_draws (r : Reg) (b : Byte) : (s.setV r b).draws = s.draws := rfl
@[simp] theorem State.setV_params (r : Reg) (b : Byte) : (s.setV r b).params = s.params := rfl
@[simp] theorem State.setV_mark (r : Reg) (b : Byte) : (s.setV r b).mark = s.mark := rfl

@[simp] theorem State.setI_V (a : Word) : (s.setI a).V = s.V := rfl
@[simp] theorem State.setI_I (a : Word) : (s.setI a).I = a := rfl
@[simp] theorem State.setI_pc (a : Word) : (s.setI a).pc = s.pc := rfl
@[simp] theorem State.setI_stack (a : Word) : (s.setI a).stack = s.stack := rfl
@[simp] theorem State.setI_SP (a : Word) : (s.setI a).SP = s.SP := rfl
@[simp] theorem State.setI_DT (a : Word) : (s.setI a).DT = s.DT := rfl
@[simp] theorem State.setI_ST (a : Word) : (s.setI a).ST = s.ST := rfl
@[simp] theorem State.setI_fb (a : Word) : (s.setI a).fb = s.fb := rfl
@[simp] theorem State.setI_key (a : Word) : (s.setI a).key = s.key := rfl
@[simp] theorem State.setI_memory (a : Word) : (s.setI a).memory = s.memory := rfl
@[simp] theorem State.setI_draws (a : Word) : (s.setI a).draws = s.draws := rfl
@[simp] theorem State.setI_params (a : Word) : (s.setI a).params = s.params := rfl
@[simp] theorem State.setI_mark (a : Word) : (s.setI a).mark = s.mark := rfl

@[simp] theorem State.setPc_V (a : Word) : (s.setPc a).V = s.V := rfl
@[simp] theorem State.setPc_I (a : Word) : (s.setPc a).I = s.I := rfl
@[simp] theorem State.setPc_pc (a : Word) : (s.setPc a).pc = a := rfl
@[simp] theorem State.setPc_stack (a : Word) : (s.setPc a).stack = s.stack := rfl
@[simp] theorem State.setPc_SP (a : Word) : (s.setPc a).SP = s.SP := rfl
@[simp] theorem State.setPc_DT (a : Word) : (s.setPc a).DT = s.DT := rfl
@[simp] theorem State.setPc_ST (a : Word) : (s.setPc a).ST = s.ST := rfl
@[simp] theorem State.setPc_fb (a : Word) : (s.setPc a).fb = s.fb := rfl
@[simp] theorem State.setPc_key (a : Word) : (s.setPc a).key = s.key := rfl
@[simp] theorem State.setPc_memory (a : Word) : (s.setPc a).memory = s.memory := rfl
@[simp] theorem State.setPc_draws (a : Word) : (s.setPc a).draws = s.draws := rfl
@[simp] theorem State.setPc_params (a : Word) : (s.setPc a).params = s.params := rfl
@[simp] theorem State.setPc_mark (a : Word) : (s.setPc a).mark = s.mark := rfl

@[simp] theorem State.setDT_V (b : Byte) : (s.setDT b).V = s.V := rfl
@[simp] theorem State.setDT_I (b : Byte) : (s.setDT b).I = s.I := rfl
@[simp] theorem State.setDT_pc (b : Byte) : (s.setDT b).pc = s.pc := rfl
@[simp] theorem State.setDT_stack (b : Byte) : (s.setDT b).stack = s.stack := rfl
@[simp] theorem State.setDT_SP (b : Byte) : (s.setDT b).SP = s.SP := rfl
@[simp] theorem State.setDT_DT (b : Byte) : (s.setDT b).DT = b := rfl
@[simp] theorem State.setDT_ST (b : Byte) : (s.setDT b).ST = s.ST := rfl
@[simp] theorem State.setDT_fb (b : Byte) : (s.setDT b).fb = s.fb := rfl
@[simp] theorem State.setDT_key (b : Byte) : (s.setDT b).key = s.key := rfl
@[simp] theorem State.setDT_memory (b : Byte) : (s.setDT b).memory = s.memory := rfl
@[simp] theorem State.setDT_draws (b : Byte) : (s.setDT b).draws = s.draws := rfl
@[simp] theorem State.setDT_params (b : Byte) : (s.setDT b).params = s.params := rfl
@[simp] theorem State.setDT_mark (b : Byte) : (s.setDT b).mark = s.mark := rfl

@[simp] theorem State.setST_V (b : Byte) : (s.setST b).V = s.V := rfl
@[simp] theorem State.setST_I (b : Byte) : (s.setST b).I = s.I := rfl
@[simp] theorem State.setST_pc (b : Byte) : (s.setST b).pc = s.pc := rfl
@[simp] theorem State.setST_stack (b : Byte) : (s.setST b).stack = s.stack := rfl
@[simp] theorem State.setST_SP (b : Byte) : (s.setST b).SP = s.SP := rfl
@[simp] theorem State.setST_DT (b : Byte) : (s.setST b).DT = s.DT := rfl
@[simp] theorem State.setST_ST (b : Byte) : (s.setST b).ST = b := rfl
@[simp] theorem State.setST_fb (b : Byte) : (s.setST b).fb = s.fb := rfl
@[simp] theorem State.setST_key (b : Byte) : (s.setST b).key = s.key := rfl
@[simp] theorem State.setST_memory (b : Byte) : (s.setST b).memory = s.memory := rfl
@[simp] theorem State.setST_draws (b : Byte) : (s.setST b).draws = s.draws := rfl
@[simp] theorem State.setST_params (b : Byte) : (s.setST b).params = s.params := rfl
@[simp] theorem State.setST_mark (b : Byte) : (s.setST b).mark = s.mark := rfl

@[simp] theorem State.setFb_V (f : Framebuffer) : (s.setFb f).V = s.V := rfl
@[simp] theorem State.setFb_I (f : Framebuffer) : (s.setFb f).I = s.I := rfl
@[simp] theorem State.setFb_pc (f : Framebuffer) : (s.setFb f).pc = s.pc := rfl
@[simp] theorem State.setFb_stack (f : Framebuffer) : (s.setFb f).stack = s.stack := rfl
@[simp] theorem State.setFb_SP (f : Framebuffer) : (s.setFb f).SP = s.SP := rfl
@[simp] theorem State.setFb_DT (f : Framebuffer) : (s.setFb f).DT = s.DT := rfl
@[simp] theorem State.setFb_ST (f : Framebuffer) : (s.setFb f).ST = s.ST := rfl
@[simp] theorem State.setFb_fb (f : Framebuffer) : (s.setFb f).fb = f := rfl
@[simp] theorem State.setFb_key (f : Framebuffer) : (s.setFb f).key = s.key := rfl
@[simp] theorem State.setFb_memory (f : Framebuffer) : (s.setFb f).memory = s.memory := rfl
@[simp] theorem State.setFb_draws (f : Framebuffer) : (s.setFb f).draws = s.draws := rfl
@[simp] theorem State.setFb_params (f : Framebuffer) : (s.setFb f).params = s.params := rfl
@[simp] theorem State.setFb_mark (f : Framebuffer) : (s.setFb f).mark = s.mark := rfl

@[simp] theorem State.setKey_V (k : Key) (b : Bool) : (s.setKey k b).V = s.V := rfl
@[simp] theorem State.setKey_I (k : Key) (b : Bool) : (s.setKey k b).I = s.I := rfl
@[simp] theorem State.setKey_pc (k : Key) (b : Bool) : (s.setKey k b).pc = s.pc := rfl
@[simp] theorem State.setKey_stack (k : Key) (b : Bool) : (s.setKey k b).stack = s.stack := rfl
@[simp] theorem State.setKey_SP (k : Key) (b : Bool) : (s.setKey k b).SP = s.SP := rfl
@[simp] theorem State.setKey_DT (k : Key) (b : Bool) : (s.setKey k b).DT = s.DT := rfl
@[simp] theorem State.setKey_ST (k : Key) (b : Bool) : (s.setKey k b).ST = s.ST := rfl
@[simp] theorem State.setKey_fb (k : Key) (b : Bool) : (s.setKey k b).fb = s.fb := rfl
@[simp] theorem State.setKey_key (k : Key) (b : Bool) : (s.setKey k b).key = s.key.set k.val b := rfl
@[simp] theorem State.setKey_memory (k : Key) (b : Bool) : (s.setKey k b).memory = s.memory := rfl
@[simp] theorem State.setKey_draws (k : Key) (b : Bool) : (s.setKey k b).draws = s.draws := rfl
@[simp] theorem State.setKey_params (k : Key) (b : Bool) : (s.setKey k b).params = s.params := rfl
@[simp] theorem State.setKey_mark (k : Key) (b : Bool) : (s.setKey k b).mark = s.mark := rfl

@[simp] theorem State.setMark_V (m : Option Fault) : (s.setMark m).V = s.V := rfl
@[simp] theorem State.setMark_I (m : Option Fault) : (s.setMark m).I = s.I := rfl
@[simp] theorem State.setMark_pc (m : Option Fault) : (s.setMark m).pc = s.pc := rfl
@[simp] theorem State.setMark_stack (m : Option Fault) : (s.setMark m).stack = s.stack := rfl
@[simp] theorem State.setMark_SP (m : Option Fault) : (s.setMark m).SP = s.SP := rfl
@[simp] theorem State.setMark_DT (m : Option Fault) : (s.setMark m).DT = s.DT := rfl
@[simp] theorem State.setMark_ST (m : Option Fault) : (s.setMark m).ST = s.ST := rfl
@[simp] theorem State.setMark_fb (m : Option Fault) : (s.setMark m).fb = s.fb := rfl
@[simp] theorem State.setMark_key (m : Option Fault) : (s.setMark m).key = s.key := rfl
@[simp] theorem State.setMark_memory (m : Option Fault) : (s.setMark m).memory = s.memory := rfl
@[simp] theorem State.setMark_draws (m : Option Fault) : (s.setMark m).draws = s.draws := rfl
@[simp] theorem State.setMark_params (m : Option Fault) : (s.setMark m).params = s.params := rfl
@[simp] theorem State.setMark_mark (m : Option Fault) : (s.setMark m).mark = m := rfl

@[simp] theorem State.push_V (v : Word) (h : s.SP.val < 16) : (s.push v h).V = s.V := rfl
@[simp] theorem State.push_I (v : Word) (h : s.SP.val < 16) : (s.push v h).I = s.I := rfl
@[simp] theorem State.push_pc (v : Word) (h : s.SP.val < 16) : (s.push v h).pc = s.pc := rfl
@[simp] theorem State.push_stack (v : Word) (h : s.SP.val < 16) : (s.push v h).stack = s.stack.set s.SP.val v := rfl
@[simp] theorem State.push_SP (v : Word) (h : s.SP.val < 16) : (s.push v h).SP = ⟨s.SP.val + 1, by omega⟩ := rfl
@[simp] theorem State.push_DT (v : Word) (h : s.SP.val < 16) : (s.push v h).DT = s.DT := rfl
@[simp] theorem State.push_ST (v : Word) (h : s.SP.val < 16) : (s.push v h).ST = s.ST := rfl
@[simp] theorem State.push_fb (v : Word) (h : s.SP.val < 16) : (s.push v h).fb = s.fb := rfl
@[simp] theorem State.push_key (v : Word) (h : s.SP.val < 16) : (s.push v h).key = s.key := rfl
@[simp] theorem State.push_memory (v : Word) (h : s.SP.val < 16) : (s.push v h).memory = s.memory := rfl
@[simp] theorem State.push_draws (v : Word) (h : s.SP.val < 16) : (s.push v h).draws = s.draws := rfl
@[simp] theorem State.push_params (v : Word) (h : s.SP.val < 16) : (s.push v h).params = s.params := rfl
@[simp] theorem State.push_mark (v : Word) (h : s.SP.val < 16) : (s.push v h).mark = s.mark := rfl

@[simp] theorem State.pop_V : (s.pop).V = s.V := rfl
@[simp] theorem State.pop_I : (s.pop).I = s.I := rfl
@[simp] theorem State.pop_pc : (s.pop).pc = s.pc := rfl
@[simp] theorem State.pop_stack : (s.pop).stack = s.stack := rfl
@[simp] theorem State.pop_SP : (s.pop).SP = ⟨s.SP.val - 1, by omega⟩ := rfl
@[simp] theorem State.pop_DT : (s.pop).DT = s.DT := rfl
@[simp] theorem State.pop_ST : (s.pop).ST = s.ST := rfl
@[simp] theorem State.pop_fb : (s.pop).fb = s.fb := rfl
@[simp] theorem State.pop_key : (s.pop).key = s.key := rfl
@[simp] theorem State.pop_memory : (s.pop).memory = s.memory := rfl
@[simp] theorem State.pop_draws : (s.pop).draws = s.draws := rfl
@[simp] theorem State.pop_params : (s.pop).params = s.params := rfl
@[simp] theorem State.pop_mark : (s.pop).mark = s.mark := rfl

@[simp] theorem State.writeByte_V (a : Nat) (b : Byte) : (s.writeByte a b).V = s.V := rfl
@[simp] theorem State.writeByte_I (a : Nat) (b : Byte) : (s.writeByte a b).I = s.I := rfl
@[simp] theorem State.writeByte_pc (a : Nat) (b : Byte) : (s.writeByte a b).pc = s.pc := rfl
@[simp] theorem State.writeByte_stack (a : Nat) (b : Byte) : (s.writeByte a b).stack = s.stack := rfl
@[simp] theorem State.writeByte_SP (a : Nat) (b : Byte) : (s.writeByte a b).SP = s.SP := rfl
@[simp] theorem State.writeByte_DT (a : Nat) (b : Byte) : (s.writeByte a b).DT = s.DT := rfl
@[simp] theorem State.writeByte_ST (a : Nat) (b : Byte) : (s.writeByte a b).ST = s.ST := rfl
@[simp] theorem State.writeByte_fb (a : Nat) (b : Byte) : (s.writeByte a b).fb = s.fb := rfl
@[simp] theorem State.writeByte_key (a : Nat) (b : Byte) : (s.writeByte a b).key = s.key := rfl
@[simp] theorem State.writeByte_memory (a : Nat) (b : Byte) : (s.writeByte a b).memory = s.memory.write s.params.font a b := rfl
@[simp] theorem State.writeByte_draws (a : Nat) (b : Byte) : (s.writeByte a b).draws = s.draws := rfl
@[simp] theorem State.writeByte_params (a : Nat) (b : Byte) : (s.writeByte a b).params = s.params := rfl
@[simp] theorem State.writeByte_mark (a : Nat) (b : Byte) : (s.writeByte a b).mark = s.mark := rfl

@[simp] theorem State.tookRand_V : (s.tookRand).V = s.V := rfl
@[simp] theorem State.tookRand_I : (s.tookRand).I = s.I := rfl
@[simp] theorem State.tookRand_pc : (s.tookRand).pc = s.pc := rfl
@[simp] theorem State.tookRand_stack : (s.tookRand).stack = s.stack := rfl
@[simp] theorem State.tookRand_SP : (s.tookRand).SP = s.SP := rfl
@[simp] theorem State.tookRand_DT : (s.tookRand).DT = s.DT := rfl
@[simp] theorem State.tookRand_ST : (s.tookRand).ST = s.ST := rfl
@[simp] theorem State.tookRand_fb : (s.tookRand).fb = s.fb := rfl
@[simp] theorem State.tookRand_key : (s.tookRand).key = s.key := rfl
@[simp] theorem State.tookRand_memory : (s.tookRand).memory = s.memory := rfl
@[simp] theorem State.tookRand_draws : (s.tookRand).draws = s.draws + 1 := rfl
@[simp] theorem State.tookRand_params : (s.tookRand).params = s.params := rfl
@[simp] theorem State.tookRand_mark : (s.tookRand).mark = s.mark := rfl

@[simp] theorem State.advance_V : (s.advance).V = s.V := rfl
@[simp] theorem State.advance_I : (s.advance).I = s.I := rfl
@[simp] theorem State.advance_pc : (s.advance).pc = s.pc + 2#16 := rfl
@[simp] theorem State.advance_stack : (s.advance).stack = s.stack := rfl
@[simp] theorem State.advance_SP : (s.advance).SP = s.SP := rfl
@[simp] theorem State.advance_DT : (s.advance).DT = s.DT := rfl
@[simp] theorem State.advance_ST : (s.advance).ST = s.ST := rfl
@[simp] theorem State.advance_fb : (s.advance).fb = s.fb := rfl
@[simp] theorem State.advance_key : (s.advance).key = s.key := rfl
@[simp] theorem State.advance_memory : (s.advance).memory = s.memory := rfl
@[simp] theorem State.advance_draws : (s.advance).draws = s.draws := rfl
@[simp] theorem State.advance_params : (s.advance).params = s.params := rfl
@[simp] theorem State.advance_mark : (s.advance).mark = s.mark := rfl

/-! ### Accessors after updates that do not touch what they read -/

@[simp] theorem State.setV_getStack (r : Reg) (b : Byte) (j0 : Fin 16) :
    (s.setV r b).getStack j0 = s.getStack j0 := rfl
@[simp] theorem State.setV_getKey (r : Reg) (b : Byte) (k0 : Key) :
    (s.setV r b).getKey k0 = s.getKey k0 := rfl
@[simp] theorem State.setV_readByte (r : Reg) (b : Byte) (a0 : Nat) :
    (s.setV r b).readByte a0 = s.readByte a0 := rfl
@[simp] theorem State.setV_pixel (r : Reg) (b : Byte) (x0 : Fin 64) (y0 : Fin 32) :
    (s.setV r b).pixel x0 y0 = s.pixel x0 y0 := rfl

@[simp] theorem State.setI_getV (a : Word) (r0 : Reg) :
    (s.setI a).getV r0 = s.getV r0 := rfl
@[simp] theorem State.setI_getStack (a : Word) (j0 : Fin 16) :
    (s.setI a).getStack j0 = s.getStack j0 := rfl
@[simp] theorem State.setI_getKey (a : Word) (k0 : Key) :
    (s.setI a).getKey k0 = s.getKey k0 := rfl
@[simp] theorem State.setI_readByte (a : Word) (a0 : Nat) :
    (s.setI a).readByte a0 = s.readByte a0 := rfl
@[simp] theorem State.setI_pixel (a : Word) (x0 : Fin 64) (y0 : Fin 32) :
    (s.setI a).pixel x0 y0 = s.pixel x0 y0 := rfl

@[simp] theorem State.setPc_getV (a : Word) (r0 : Reg) :
    (s.setPc a).getV r0 = s.getV r0 := rfl
@[simp] theorem State.setPc_getStack (a : Word) (j0 : Fin 16) :
    (s.setPc a).getStack j0 = s.getStack j0 := rfl
@[simp] theorem State.setPc_getKey (a : Word) (k0 : Key) :
    (s.setPc a).getKey k0 = s.getKey k0 := rfl
@[simp] theorem State.setPc_readByte (a : Word) (a0 : Nat) :
    (s.setPc a).readByte a0 = s.readByte a0 := rfl
@[simp] theorem State.setPc_pixel (a : Word) (x0 : Fin 64) (y0 : Fin 32) :
    (s.setPc a).pixel x0 y0 = s.pixel x0 y0 := rfl

@[simp] theorem State.setDT_getV (b : Byte) (r0 : Reg) :
    (s.setDT b).getV r0 = s.getV r0 := rfl
@[simp] theorem State.setDT_getStack (b : Byte) (j0 : Fin 16) :
    (s.setDT b).getStack j0 = s.getStack j0 := rfl
@[simp] theorem State.setDT_getKey (b : Byte) (k0 : Key) :
    (s.setDT b).getKey k0 = s.getKey k0 := rfl
@[simp] theorem State.setDT_readByte (b : Byte) (a0 : Nat) :
    (s.setDT b).readByte a0 = s.readByte a0 := rfl
@[simp] theorem State.setDT_pixel (b : Byte) (x0 : Fin 64) (y0 : Fin 32) :
    (s.setDT b).pixel x0 y0 = s.pixel x0 y0 := rfl

@[simp] theorem State.setST_getV (b : Byte) (r0 : Reg) :
    (s.setST b).getV r0 = s.getV r0 := rfl
@[simp] theorem State.setST_getStack (b : Byte) (j0 : Fin 16) :
    (s.setST b).getStack j0 = s.getStack j0 := rfl
@[simp] theorem State.setST_getKey (b : Byte) (k0 : Key) :
    (s.setST b).getKey k0 = s.getKey k0 := rfl
@[simp] theorem State.setST_readByte (b : Byte) (a0 : Nat) :
    (s.setST b).readByte a0 = s.readByte a0 := rfl
@[simp] theorem State.setST_pixel (b : Byte) (x0 : Fin 64) (y0 : Fin 32) :
    (s.setST b).pixel x0 y0 = s.pixel x0 y0 := rfl

@[simp] theorem State.setFb_getV (f : Framebuffer) (r0 : Reg) :
    (s.setFb f).getV r0 = s.getV r0 := rfl
@[simp] theorem State.setFb_getStack (f : Framebuffer) (j0 : Fin 16) :
    (s.setFb f).getStack j0 = s.getStack j0 := rfl
@[simp] theorem State.setFb_getKey (f : Framebuffer) (k0 : Key) :
    (s.setFb f).getKey k0 = s.getKey k0 := rfl
@[simp] theorem State.setFb_readByte (f : Framebuffer) (a0 : Nat) :
    (s.setFb f).readByte a0 = s.readByte a0 := rfl

@[simp] theorem State.setKey_getV (k : Key) (b : Bool) (r0 : Reg) :
    (s.setKey k b).getV r0 = s.getV r0 := rfl
@[simp] theorem State.setKey_getStack (k : Key) (b : Bool) (j0 : Fin 16) :
    (s.setKey k b).getStack j0 = s.getStack j0 := rfl
@[simp] theorem State.setKey_readByte (k : Key) (b : Bool) (a0 : Nat) :
    (s.setKey k b).readByte a0 = s.readByte a0 := rfl
@[simp] theorem State.setKey_pixel (k : Key) (b : Bool) (x0 : Fin 64) (y0 : Fin 32) :
    (s.setKey k b).pixel x0 y0 = s.pixel x0 y0 := rfl

@[simp] theorem State.setMark_getV (m : Option Fault) (r0 : Reg) :
    (s.setMark m).getV r0 = s.getV r0 := rfl
@[simp] theorem State.setMark_getStack (m : Option Fault) (j0 : Fin 16) :
    (s.setMark m).getStack j0 = s.getStack j0 := rfl
@[simp] theorem State.setMark_getKey (m : Option Fault) (k0 : Key) :
    (s.setMark m).getKey k0 = s.getKey k0 := rfl
@[simp] theorem State.setMark_readByte (m : Option Fault) (a0 : Nat) :
    (s.setMark m).readByte a0 = s.readByte a0 := rfl
@[simp] theorem State.setMark_pixel (m : Option Fault) (x0 : Fin 64) (y0 : Fin 32) :
    (s.setMark m).pixel x0 y0 = s.pixel x0 y0 := rfl

@[simp] theorem State.push_getV (v : Word) (h : s.SP.val < 16) (r0 : Reg) :
    (s.push v h).getV r0 = s.getV r0 := rfl
@[simp] theorem State.push_getKey (v : Word) (h : s.SP.val < 16) (k0 : Key) :
    (s.push v h).getKey k0 = s.getKey k0 := rfl
@[simp] theorem State.push_readByte (v : Word) (h : s.SP.val < 16) (a0 : Nat) :
    (s.push v h).readByte a0 = s.readByte a0 := rfl
@[simp] theorem State.push_pixel (v : Word) (h : s.SP.val < 16) (x0 : Fin 64) (y0 : Fin 32) :
    (s.push v h).pixel x0 y0 = s.pixel x0 y0 := rfl

@[simp] theorem State.pop_getV (r0 : Reg) :
    (s.pop).getV r0 = s.getV r0 := rfl
@[simp] theorem State.pop_getStack (j0 : Fin 16) :
    (s.pop).getStack j0 = s.getStack j0 := rfl
@[simp] theorem State.pop_getKey (k0 : Key) :
    (s.pop).getKey k0 = s.getKey k0 := rfl
@[simp] theorem State.pop_readByte (a0 : Nat) :
    (s.pop).readByte a0 = s.readByte a0 := rfl
@[simp] theorem State.pop_pixel (x0 : Fin 64) (y0 : Fin 32) :
    (s.pop).pixel x0 y0 = s.pixel x0 y0 := rfl

@[simp] theorem State.writeByte_getV (a : Nat) (b : Byte) (r0 : Reg) :
    (s.writeByte a b).getV r0 = s.getV r0 := rfl
@[simp] theorem State.writeByte_getStack (a : Nat) (b : Byte) (j0 : Fin 16) :
    (s.writeByte a b).getStack j0 = s.getStack j0 := rfl
@[simp] theorem State.writeByte_getKey (a : Nat) (b : Byte) (k0 : Key) :
    (s.writeByte a b).getKey k0 = s.getKey k0 := rfl
@[simp] theorem State.writeByte_pixel (a : Nat) (b : Byte) (x0 : Fin 64) (y0 : Fin 32) :
    (s.writeByte a b).pixel x0 y0 = s.pixel x0 y0 := rfl

@[simp] theorem State.tookRand_getV (r0 : Reg) :
    (s.tookRand).getV r0 = s.getV r0 := rfl
@[simp] theorem State.tookRand_getStack (j0 : Fin 16) :
    (s.tookRand).getStack j0 = s.getStack j0 := rfl
@[simp] theorem State.tookRand_getKey (k0 : Key) :
    (s.tookRand).getKey k0 = s.getKey k0 := rfl
@[simp] theorem State.tookRand_readByte (a0 : Nat) :
    (s.tookRand).readByte a0 = s.readByte a0 := rfl
@[simp] theorem State.tookRand_pixel (x0 : Fin 64) (y0 : Fin 32) :
    (s.tookRand).pixel x0 y0 = s.pixel x0 y0 := rfl

@[simp] theorem State.advance_getV (r0 : Reg) :
    (s.advance).getV r0 = s.getV r0 := rfl
@[simp] theorem State.advance_getStack (j0 : Fin 16) :
    (s.advance).getStack j0 = s.getStack j0 := rfl
@[simp] theorem State.advance_getKey (k0 : Key) :
    (s.advance).getKey k0 = s.getKey k0 := rfl
@[simp] theorem State.advance_readByte (a0 : Nat) :
    (s.advance).readByte a0 = s.readByte a0 := rfl
@[simp] theorem State.advance_pixel (x0 : Fin 64) (y0 : Fin 32) :
    (s.advance).pixel x0 y0 = s.pixel x0 y0 := rfl

/-! ### Accessors after the updates they read -/

theorem State.getV_setV (r q : Reg) (b : Byte) : (s.setV r b).getV q = if q = r then b else s.getV q := by
  simp only [State.getV, State.setV, Vector.getElem_set, Fin.val_inj, eq_comm]

@[simp] theorem State.getV_setV_same (r : Reg) (b : Byte) : (s.setV r b).getV r = b := by
  simp [State.getV_setV]

theorem State.getV_setV_ne {r q : Reg} (b : Byte) (h : q ≠ r) : (s.setV r b).getV q = s.getV q := by
  simp [State.getV_setV, h]

theorem State.getKey_setKey (k q : Key) (b : Bool) :
    (s.setKey k b).getKey q = if q = k then b else s.getKey q := by
  simp only [State.getKey, State.setKey, Vector.getElem_set, Fin.val_inj, eq_comm]

theorem State.getStack_push (v : Word) (h : s.SP.val < 16) (j : Fin 16) :
    (s.push v h).getStack j = if j.val = s.SP.val then v else s.getStack j := by
  simp only [State.getStack, State.push, Vector.getElem_set, eq_comm]

@[simp] theorem State.setFb_pixel (f : Framebuffer) (x : Fin 64) (y : Fin 32) :
    (s.setFb f).pixel x y = f.cell x y := rfl

@[simp] theorem State.setV_setV (r : Reg) (b c : Byte) : (s.setV r b).setV r c = s.setV r c := by
  simp [State.setV]

/-! ### The skip, and the reset state -/

theorem State.skipIf_eq (c : Bool) : s.skipIf c = s.setPc (if c then s.pc + 2#16 else s.pc) := by
  cases c <;> rfl

@[simp] theorem State.getV_resetWith (p : Params) (r : Reg) : (State.resetWith p).getV r = 0#8 := by
  simp [State.getV, State.resetWith]

@[simp] theorem State.getStack_resetWith (p : Params) (j : Fin 16) : (State.resetWith p).getStack j = 0#16 := by
  simp [State.getStack, State.resetWith]

@[simp] theorem State.getKey_resetWith (p : Params) (k : Key) : (State.resetWith p).getKey k = false := by
  simp [State.getKey, State.resetWith]

@[simp] theorem State.readByte_resetWith (p : Params) (a : Nat) :
    (State.resetWith p).readByte a = resetByte p.font a := rfl

@[simp] theorem State.pixel_resetWith (p : Params) (x : Fin 64) (y : Fin 32) :
    (State.resetWith p).pixel x y = false := by
  simp [State.pixel, Framebuffer.cell, State.resetWith]

end Sys2Proof.Machine
end

