-- ==== Sys2Proof/Laws/Display.lean ====
section
/-! SUPPORT. What drawing a sprite does to each cell, and when it collides (spec/41_display.md R76): the loop
of the pseudocode toggles no cell twice, so it has a closed form. -/

namespace Sys2Proof.Machine

theorem Framebuffer.cell_toggle (fb : Framebuffer) (x u : Fin 64) (y v : Fin 32) :
    Framebuffer.cell (fb.toggle x y) u v =
      (Framebuffer.cell fb u v ^^ decide (u = x ∧ v = y)) := by
  unfold Framebuffer.cell Framebuffer.toggle
  by_cases hy : v = y
  · subst hy
    simp [Fin.ext_iff, eq_comm]
  · have : y.val ≠ v.val := fun e => hy (Fin.ext e.symm)
    simp [Vector.getElem_set_ne _ _ this, hy]

/-- A set bit among the first `k` columns of the sprite row `bits`, drawn at (`bx`, `py`), lands on (x, y). -/
def RowSets (bits : Byte) (bx py k : Nat) (x : Fin 64) (y : Fin 32) : Prop :=
  ∃ c, c < k ∧ bits.getLsbD (7 - c) = true ∧ x.val = (bx + c) % 64 ∧ y.val = py % 32

/-- A set bit of the sprite, drawn at (`bx`, `py`), lands on (x, y). -/
def SpriteSets (sprite : List Byte) (bx py : Nat) (x : Fin 64) (y : Fin 32) : Prop :=
  ∃ r, ∃ h : r < sprite.length, RowSets sprite[r] bx (py + r) 8 x y

/-- `b` drawn over by the cells that `sets` names: they are toggled, and a set one among them is a hit. -/
structure DrawnBy (sets : Fin 64 → Fin 32 → Prop) (b b' : Blit) : Prop where
  cell : ∀ x y, b'.fb.cell x y = true ↔ (b.fb.cell x y = true ↔ ¬ sets x y)
  hit  : b'.hit = true ↔ b.hit = true ∨ ∃ x y, sets x y ∧ b.fb.cell x y = true

theorem DrawnBy.nothing (b : Blit) {sets : Fin 64 → Fin 32 → Prop} (h : ∀ x y, ¬ sets x y) : DrawnBy sets b b :=
  ⟨fun x y => by simp [h x y], by simp [h]⟩

/-- Two drawings on disjoint cells are one drawing on all of them. -/
theorem DrawnBy.trans {s₁ s₂ s : Fin 64 → Fin 32 → Prop} {b b' b'' : Blit} (h₁ : DrawnBy s₁ b b')
    (h₂ : DrawnBy s₂ b' b'') (hs : ∀ x y, s x y ↔ s₁ x y ∨ s₂ x y) (hd : ∀ x y, s₁ x y → ¬ s₂ x y) :
    DrawnBy s b b'' := by
  refine ⟨fun x y => ?_, ?_⟩
  · have := hd x y
    rw [h₂.cell, h₁.cell, hs]
    tauto
  · rw [h₂.hit, h₁.hit]
    constructor
    · rintro ((h | ⟨x, y, h, hc⟩) | ⟨x, y, h, hc⟩)
      · exact .inl h
      · exact .inr ⟨x, y, (hs x y).2 (.inl h), hc⟩
      · have h1 : ¬ s₁ x y := fun h' => hd x y h' h
        exact .inr ⟨x, y, (hs x y).2 (.inr h), ((h₁.cell x y).1 hc).2 h1⟩
    · rintro (h | ⟨x, y, h, hc⟩)
      · exact .inl (.inl h)
      · rcases (hs x y).1 h with h | h
        · exact .inl (.inr ⟨x, y, h, hc⟩)
        · have h1 : ¬ s₁ x y := fun h' => hd x y h' h
          exact .inr ⟨x, y, h, (h₁.cell x y).2 ⟨fun _ => h1, fun _ => hc⟩⟩

theorem Blit.plot_drawn (b : Blit) (px py : Nat) :
    DrawnBy (fun x y => x.val = px % 64 ∧ y.val = py % 32) b (b.plot px py) := by
  refine ⟨fun x y => ?_, ?_⟩
  · have : (x = Fin.ofNat 64 px ∧ y = Fin.ofNat 32 py) ↔ (x.val = px % 64 ∧ y.val = py % 32) := by
      simp [Fin.ext_iff]
    simp only [Blit.plot, Framebuffer.cell_toggle, this]
    by_cases h : x.val = px % 64 ∧ y.val = py % 32 <;> cases b.fb.cell x y <;> simp [h]
  · simp only [Blit.plot, Bool.or_eq_true]
    refine or_congr_right ⟨fun h => ⟨_, _, ⟨rfl, rfl⟩, h⟩, ?_⟩
    rintro ⟨x, y, ⟨hx, hy⟩, hc⟩
    rwa [show Fin.ofNat 64 px = x from Fin.ext hx.symm, show Fin.ofNat 32 py = y from Fin.ext hy.symm]

/-- One sprite row: its columns are distinct mod 64. -/
theorem Blit.row_drawn (b : Blit) (bits : Byte) (bx py : Nat) :
    DrawnBy (RowSets bits bx py 8) b (b.row bits bx py) := by
  suffices h : ∀ k, k ≤ 8 → DrawnBy (RowSets bits bx py k) b
      ((List.range k).foldl (fun b c => if bits.getLsbD (7 - c) then b.plot (bx + c) py else b) b) from h 8 le_rfl
  intro k
  induction k with
  | zero => exact fun _ => DrawnBy.nothing b (by rintro x y ⟨c, hc, -⟩; omega)
  | succ k ih =>
    intro hk
    rw [List.range_succ, List.foldl_append]
    simp only [List.foldl_cons, List.foldl_nil]
    have ih := ih (by omega)
    split
    · rename_i hbit
      refine ih.trans (Blit.plot_drawn _ _ _) (fun x y => ⟨?_, ?_⟩) ?_
      · rintro ⟨c, hc, hb, hx, hy⟩
        rcases Nat.lt_succ_iff_lt_or_eq.1 hc with hc | rfl
        · exact .inl ⟨c, hc, hb, hx, hy⟩
        · exact .inr ⟨hx, hy⟩
      · rintro (⟨c, hc, hb, hx, hy⟩ | ⟨hx, hy⟩)
        · exact ⟨c, by omega, hb, hx, hy⟩
        · exact ⟨k, by omega, hbit, hx, hy⟩
      · rintro x y ⟨c, hc, -, hx, -⟩ ⟨hx', -⟩
        omega
    · rename_i hbit
      have e : RowSets bits bx py (k + 1) = RowSets bits bx py k := by
        funext x y
        refine propext ⟨?_, fun ⟨c, hc, h⟩ => ⟨c, by omega, h⟩⟩
        rintro ⟨c, hc, hb, h⟩
        rcases Nat.lt_succ_iff_lt_or_eq.1 hc with hc | rfl
        · exact ⟨c, hc, hb, h⟩
        · exact absurd hb hbit
      rw [e]
      exact ih

/-- A whole sprite: its at most 32 rows are distinct mod 32. -/
theorem Blit.rows_drawn (b : Blit) (bx py : Nat) (sprite : List Byte) (hlen : sprite.length ≤ 32) :
    DrawnBy (SpriteSets sprite bx py) b (b.rows bx py sprite) := by
  induction sprite generalizing b py with
  | nil => exact DrawnBy.nothing b (by rintro x y ⟨r, h, -⟩; simp at h)
  | cons bits rest ih =>
    simp only [List.length_cons] at hlen
    refine (Blit.row_drawn b bits bx py).trans (ih _ (py + 1) (by omega)) (fun x y => ⟨?_, ?_⟩) ?_
    · rintro ⟨r, h, hr⟩
      cases r with
      | zero => exact .inl (by simpa using hr)
      | succ r =>
        refine .inr ⟨r, by simpa using h, ?_⟩
        simpa [Nat.add_comm 1 r, Nat.add_assoc] using hr
    · rintro (h | ⟨r, h, hr⟩)
      · exact ⟨0, by simp, by simpa using h⟩
      · refine ⟨r + 1, by simpa using h, ?_⟩
        simpa [Nat.add_comm 1 r, Nat.add_assoc] using hr
    · rintro x y ⟨c, -, -, -, hy⟩ ⟨r, h, c', -, -, -, hy'⟩
      omega

end Sys2Proof.Machine
end

