-- ==== Sys2Proof/Laws/Encoding.lean ====
section
/-! SUPPORT. The fields of the words that the formats build (spec/30_encoding.md R55, R56): a format loses no bit. -/

namespace Sys2Proof

/-- A slice of a concatenation that lies in its lower part. -/
theorem extractLsb'_append_low {v w s n : Nat} (a : BitVec v) (b : BitVec w) (h : s + n ≤ w) :
    (a ++ b).extractLsb' s n = b.extractLsb' s n := by
  ext i hi
  simp only [BitVec.getElem_extractLsb', BitVec.getLsbD_append]
  rw [if_pos (by omega)]

/-- A slice of a concatenation that lies in its upper part. -/
theorem extractLsb'_append_high {v w s n : Nat} (a : BitVec v) (b : BitVec w) (h : w ≤ s) :
    (a ++ b).extractLsb' s n = a.extractLsb' (s - w) n := by
  ext i hi
  simp only [BitVec.getElem_extractLsb', BitVec.getLsbD_append]
  rw [if_neg (by omega)]
  congr 1
  omega

theorem extractLsb'_whole {w : Nat} (a : BitVec w) : a.extractLsb' 0 w = a := by
  ext i hi
  simp

/-! ### Format FA -/

@[simp] theorem opOf_formatFA (op : BitVec 4) (nnn : Addr12) : opOf (formatFA op nnn) = op := by
  unfold opOf formatFA
  rw [extractLsb'_append_high _ _ (by decide)]
  exact extractLsb'_whole op

@[simp] theorem nnnOf_formatFA (op : BitVec 4) (nnn : Addr12) : nnnOf (formatFA op nnn) = nnn := by
  unfold nnnOf formatFA
  rw [extractLsb'_append_low _ _ (by decide)]
  exact extractLsb'_whole nnn

@[simp] theorem kkOf_formatFA (op : BitVec 4) (nnn : Addr12) : kkOf (formatFA op nnn) = nnn.setWidth 8 := by
  unfold kkOf formatFA
  rw [extractLsb'_append_low _ _ (by decide)]
  ext i hi
  simp [BitVec.getElem_extractLsb', BitVec.getElem_setWidth]

/-! ### Format FXK -/

@[simp] theorem opOf_formatFXK (op : BitVec 4) (x : Reg) (kk : Byte) : opOf (formatFXK op x kk) = op := by
  unfold opOf formatFXK
  rw [extractLsb'_append_high _ _ (by decide), extractLsb'_append_high _ _ (by decide)]
  exact extractLsb'_whole op

@[simp] theorem xOf_formatFXK (op : BitVec 4) (x : Reg) (kk : Byte) : xOf (formatFXK op x kk) = x := by
  unfold xOf formatFXK
  rw [extractLsb'_append_high _ _ (by decide), extractLsb'_append_low _ _ (by decide)]
  exact congrArg BitVec.toFin (extractLsb'_whole (BitVec.ofFin (w := 4) x))

@[simp] theorem kkOf_formatFXK (op : BitVec 4) (x : Reg) (kk : Byte) : kkOf (formatFXK op x kk) = kk := by
  unfold kkOf formatFXK
  rw [extractLsb'_append_low _ _ (by decide)]
  exact extractLsb'_whole kk

/-! ### Format FXYN -/

@[simp] theorem opOf_formatFXYN (op : BitVec 4) (x y : Reg) (n : Nibble) : opOf (formatFXYN op x y n) = op := by
  unfold opOf formatFXYN
  rw [extractLsb'_append_high _ _ (by decide), extractLsb'_append_high _ _ (by decide),
    extractLsb'_append_high _ _ (by decide)]
  exact extractLsb'_whole op

@[simp] theorem xOf_formatFXYN (op : BitVec 4) (x y : Reg) (n : Nibble) : xOf (formatFXYN op x y n) = x := by
  unfold xOf formatFXYN
  rw [extractLsb'_append_high _ _ (by decide), extractLsb'_append_high _ _ (by decide),
    extractLsb'_append_low _ _ (by decide)]
  exact congrArg BitVec.toFin (extractLsb'_whole (BitVec.ofFin (w := 4) x))

@[simp] theorem yOf_formatFXYN (op : BitVec 4) (x y : Reg) (n : Nibble) : yOf (formatFXYN op x y n) = y := by
  unfold yOf formatFXYN
  rw [extractLsb'_append_high _ _ (by decide), extractLsb'_append_low _ _ (by decide)]
  exact congrArg BitVec.toFin (extractLsb'_whole (BitVec.ofFin (w := 4) y))

@[simp] theorem nOf_formatFXYN (op : BitVec 4) (x y : Reg) (n : Nibble) : nOf (formatFXYN op x y n) = n := by
  unfold nOf formatFXYN
  rw [extractLsb'_append_low _ _ (by decide)]
  exact extractLsb'_whole n

/-! ### A word from its fields, and from its bytes -/

theorem formatFA_fields (w : Word) : formatFA (opOf w) (nnnOf w) = w := by
  unfold formatFA opOf nnnOf
  ext i hi
  simp only [BitVec.getElem_append, BitVec.getElem_extractLsb']
  split
  · simp [BitVec.getLsbD_eq_getElem hi]
  · rw [show 12 + (i - 12) = i by omega, BitVec.getLsbD_eq_getElem hi]

theorem formatFXK_fields (w : Word) : formatFXK (opOf w) (xOf w) (kkOf w) = w := by
  unfold formatFXK opOf xOf kkOf
  ext i hi
  simp only [BitVec.getElem_append, BitVec.getElem_extractLsb']
  split
  · simp [BitVec.getLsbD_eq_getElem hi]
  · split
    · simp only [BitVec.ofFin_toFin, BitVec.getElem_extractLsb']
      rw [show 8 + (i - 8) = i by omega, BitVec.getLsbD_eq_getElem hi]
    · rw [show 12 + (i - 8 - 4) = i by omega, BitVec.getLsbD_eq_getElem hi]

theorem formatFXYN_fields (w : Word) : formatFXYN (opOf w) (xOf w) (yOf w) (nOf w) = w := by
  unfold formatFXYN opOf xOf yOf nOf
  ext i hi
  simp only [BitVec.getElem_append, BitVec.getElem_extractLsb']
  split
  · simp [BitVec.getLsbD_eq_getElem hi]
  · split
    · simp only [BitVec.ofFin_toFin, BitVec.getElem_extractLsb']
      rw [show 4 + (i - 4) = i by omega, BitVec.getLsbD_eq_getElem hi]
    · split
      · simp only [BitVec.ofFin_toFin, BitVec.getElem_extractLsb']
        rw [show 8 + (i - 4 - 4) = i by omega, BitVec.getLsbD_eq_getElem hi]
      · rw [show 12 + (i - 4 - 4 - 4) = i by omega, BitVec.getLsbD_eq_getElem hi]

/-- A word is its high byte and its low byte (R44). -/
@[simp] theorem wordOfBytes_highByte_lowByte (w : Word) : wordOfBytes (highByte w) (lowByte w) = w := by
  unfold wordOfBytes highByte lowByte
  ext i hi
  simp only [BitVec.getElem_append, BitVec.getElem_extractLsb']
  split
  · simp [BitVec.getLsbD_eq_getElem hi]
  · rw [show 8 + (i - 8) = i by omega, BitVec.getLsbD_eq_getElem hi]

/-- The word of two bytes as a number: 256 times the first plus the second (R44). -/
theorem toNat_wordOfBytes (hi lo : Byte) : (wordOfBytes hi lo).toNat = hi.toNat * 256 + lo.toNat := by
  unfold wordOfBytes
  rw [BitVec.toNat_append, ← Nat.shiftLeft_add_eq_or_of_lt lo.isLt, Nat.shiftLeft_eq]

end Sys2Proof
end

