-- ==== Sys2Proof/Laws/Memory.lean ====
section
/-! SUPPORT. The laws of memory: reading after writing, and that every memory operation keeps the canonical
form. -/

namespace Sys2Proof.Machine

variable {font : Font}

/-! ### Erasing and inserting a cell -/

@[simp] theorem Memory.read_nil (a : Nat) : Memory.read font [] a = resetByte font a := rfl

theorem Memory.read_erase (m : Memory) (a q : Nat) :
    (m.erase a).read font q = if q = a then resetByte font q else m.read font q := by
  induction m with
  | nil => simp [Memory.erase]
  | cons c m ih =>
    obtain ⟨b, w⟩ := c
    simp only [Memory.erase] at ih ⊢
    by_cases hb : b = a
    · subst hb
      simp only [List.filter_cons, bne_self_eq_false, Bool.false_eq_true, if_false, ih, Memory.read]
      split <;> simp_all
    · simp only [List.filter_cons, bne_iff_ne, ne_eq, hb, not_false_eq_true, if_true, Memory.read, ih]
      split <;> split <;> simp_all

theorem Memory.read_insert (m : Memory) (a q : Nat) (v : Byte) (h : ∀ c ∈ m, c.1 ≠ a) :
    (Memory.insert a v m).read font q = if q = a then v else m.read font q := by
  induction m with
  | nil => simp [Memory.insert, Memory.read]
  | cons c m ih =>
    obtain ⟨b, w⟩ := c
    have hb : b ≠ a := h (b, w) (by simp)
    have ih := ih fun c hc => h c (by simp [hc])
    simp only [Memory.insert]
    split
    · simp [Memory.read]
    · simp only [Memory.read, ih]
      split <;> split <;> simp_all

theorem Memory.mem_erase (m : Memory) (a : Nat) : ∀ c ∈ m.erase a, c.1 ≠ a := by
  simp [Memory.erase]

/-- One byte changes, to the value written (R43). -/
theorem Memory.read_write (m : Memory) (a q : Nat) (v : Byte) :
    (m.write font a v).read font q = if q = a then v else m.read font q := by
  unfold Memory.write
  split
  · rename_i h
    rw [Memory.read_erase]
    split <;> simp_all
  · rw [Memory.read_insert _ _ _ _ (Memory.mem_erase m a), Memory.read_erase]
    split <;> simp_all

/-! ### The canonical form -/

theorem Memory.wf_cons {a : Nat} {v : Byte} {m : Memory} :
    Memory.wf font ((a, v) :: m) = true ↔
      a < Config.memSize ∧ v ≠ resetByte font a ∧ (∀ c ∈ m, a < c.1) ∧ m.wf font = true := by
  simp only [Memory.wf, Bool.and_eq_true, decide_eq_true_eq, bne_iff_ne, List.all_eq_true, and_assoc]

theorem Memory.wf_erase {m : Memory} (a : Nat) (h : m.wf font = true) : (m.erase a).wf font = true := by
  induction m with
  | nil => rfl
  | cons c m ih =>
    obtain ⟨b, w⟩ := c
    obtain ⟨hb, hw, hs, hm⟩ := Memory.wf_cons.1 h
    simp only [Memory.erase] at ih ⊢
    by_cases hba : b = a
    · simpa [List.filter_cons, hba] using ih hm
    · simp only [List.filter_cons, bne_iff_ne, ne_eq, hba, not_false_eq_true, if_true]
      exact Memory.wf_cons.2 ⟨hb, hw, fun c hc => hs c (List.mem_filter.1 hc).1, ih hm⟩

theorem Memory.mem_insert {a : Nat} {v : Byte} {m : Memory} {c : Host.Cell}
    (h : c ∈ Memory.insert a v m) : c = (a, v) ∨ c ∈ m := by
  induction m with
  | nil => simpa [Memory.insert] using h
  | cons d m ih =>
    obtain ⟨b, w⟩ := d
    simp only [Memory.insert] at h
    split at h
    · simpa using h
    · rcases List.mem_cons.1 h with h | h
      · simp [h]
      · rcases ih h with h | h <;> simp [h]

theorem Memory.wf_insert {m : Memory} {a : Nat} {v : Byte} (ha : a < Config.memSize)
    (hv : v ≠ resetByte font a) (hne : ∀ c ∈ m, c.1 ≠ a) (h : m.wf font = true) :
    (Memory.insert a v m).wf font = true := by
  induction m with
  | nil => simpa [Memory.insert, Memory.wf_cons] using ⟨ha, hv, rfl⟩
  | cons c m ih =>
    obtain ⟨b, w⟩ := c
    obtain ⟨hb, hw, hs, hm⟩ := Memory.wf_cons.1 h
    have hba : b ≠ a := hne (b, w) (by simp)
    simp only [Memory.insert]
    split
    · rename_i hlt
      refine Memory.wf_cons.2 ⟨ha, hv, fun c hc => ?_, h⟩
      rcases List.mem_cons.1 hc with rfl | hc
      · exact hlt
      · exact Nat.lt_trans hlt (hs c hc)
    · rename_i hle
      refine Memory.wf_cons.2 ⟨hb, hw, fun c hc => ?_, ih (fun c hc => hne c (by simp [hc])) hm⟩
      rcases Memory.mem_insert hc with rfl | hc
      · exact Nat.lt_of_le_of_ne (Nat.le_of_not_lt hle) hba
      · exact hs c hc

/-- A write in range keeps the canonical form. -/
theorem Memory.wf_write {m : Memory} {a : Nat} (v : Byte) (ha : a < Config.memSize) (h : m.wf font = true) :
    (m.write font a v).wf font = true := by
  unfold Memory.write
  split
  · exact Memory.wf_erase a h
  · exact Memory.wf_insert ha ‹_› (Memory.mem_erase m a) (Memory.wf_erase a h)

/-- The memory of the reset state is in canonical form. -/
theorem Memory.wf_resetWith (p : Params) : (State.resetWith p).memory.wf p.font = true := rfl

/-! ### Bytes of the state -/

theorem State.readByte_writeByte (s : State) (a q : Nat) (b : Byte) :
    (s.writeByte a b).readByte q = if q = a then b else s.readByte q :=
  Memory.read_write s.memory a q b

/-- What a block write changes: the state with another memory. -/
theorem State.writeBytes_eq (s : State) (a : Nat) (bs : List Byte) :
    s.writeBytes a bs = { s with memory := (s.writeBytes a bs).memory } := by
  induction bs generalizing s a with
  | nil => rfl
  | cons b bs ih => rw [State.writeBytes, ih]; rfl

/-- What a block write does to each byte: byte `k` of the list goes to `a + k`, and no other byte changes. -/
theorem State.readByte_writeBytes (s : State) (a q : Nat) (bs : List Byte) :
    (s.writeBytes a bs).readByte q =
      if h : a ≤ q ∧ q - a < bs.length then bs[q - a]'h.2 else s.readByte q := by
  induction bs generalizing s a with
  | nil => simp [State.writeBytes]
  | cons b bs ih =>
    rw [State.writeBytes, ih]
    by_cases hq : q = a
    · subst hq
      simp [State.readByte_writeByte]
    · by_cases hle : a + 1 ≤ q
      · have e : q - a = q - (a + 1) + 1 := by omega
        simp only [hle, true_and, State.readByte_writeByte, hq, if_false, List.length_cons,
          show a ≤ q by omega, e, Nat.add_lt_add_iff_right, List.getElem_cons_succ]
      · simp [hle, show ¬ a ≤ q by omega, State.readByte_writeByte, hq]

/-- A block write in range keeps the canonical form. -/
theorem State.wf_writeBytes {s : State} {a : Nat} {bs : List Byte} (ha : a + bs.length ≤ Config.memSize)
    (h : s.memory.wf s.params.font = true) :
    (s.writeBytes a bs).memory.wf s.params.font = true := by
  induction bs generalizing s a with
  | nil => exact h
  | cons b bs ih =>
    simp only [List.length_cons] at ha
    exact ih (s := s.writeByte a b) (by omega) (Memory.wf_write b (by omega) h)

/-- What a block write keeps: every field but memory. -/
theorem State.writeBytes_fields (s : State) (a : Nat) (bs : List Byte) :
    let t := s.writeBytes a bs
    t.V = s.V ∧ t.I = s.I ∧ t.pc = s.pc ∧ t.stack = s.stack ∧ t.SP = s.SP ∧ t.DT = s.DT ∧ t.ST = s.ST ∧
      t.fb = s.fb ∧ t.key = s.key ∧ t.draws = s.draws ∧ t.params = s.params ∧ t.mark = s.mark := by
  rw [State.writeBytes_eq]
  simp

@[simp] theorem State.length_readBytes (s : State) (a n : Nat) : (s.readBytes a n).length = n := by
  simp [State.readBytes]

@[simp] theorem State.getElem_readBytes (s : State) (a n k : Nat) (h : k < (s.readBytes a n).length) :
    (s.readBytes a n)[k] = s.readByte (a + k) := by
  simp [State.readBytes]

end Sys2Proof.Machine
end

