-- ==== Sys2Proof/Laws/Ops.lean ====
section
/-! SUPPORT. One lemma per shared operation of the operands and the flags: everything it can do. -/

namespace Sys2Proof.Machine

/-! ### The range check (R41, R76, R104, R105) -/

/-- No address of the block is out of range. -/
theorem lowestOutOfRange_eq_none {base len : Nat} :
    lowestOutOfRange base len = none ↔ len = 0 ∨ base + len ≤ Config.memSize := by
  unfold lowestOutOfRange
  split <;> simp <;> omega

/-- The address it names lies in the block, is out of range, and is the lowest such. -/
theorem lowestOutOfRange_eq_some {base len a : Nat} :
    lowestOutOfRange base len = some a ↔
      (base ≤ a ∧ a < base + len ∧ Config.memSize ≤ a) ∧ ∀ b, base ≤ b → b < a → b < Config.memSize := by
  unfold lowestOutOfRange
  constructor
  · intro h
    split at h
    · obtain rfl := Option.some.inj h
      exact ⟨by omega, fun b _ _ => by omega⟩
    · cases h
  · rintro ⟨⟨h₁, h₂, h₃⟩, h₄⟩
    rw [if_pos (by omega)]
    refine congrArg some ?_
    rcases Nat.lt_or_ge base Config.memSize with hb | hb
    · by_contra hne
      have := h₄ Config.memSize (by omega) (by omega)
      omega
    · by_contra hne
      have := h₄ base (by omega) (by omega)
      omega

/-! ### Keys (R107, R110) -/

theorem keyOf_eq_some {b : Byte} {k : Key} : keyOf b = some k ↔ b.toNat = k.val := by
  unfold keyOf
  split
  · simp [Fin.ext_iff]
  · have := k.isLt
    simp only [reduceCtorEq, false_iff]
    omega

theorem keyOf_eq_none {b : Byte} : keyOf b = none ↔ 0xF < b.toNat := by
  unfold keyOf
  split <;> simp <;> omega

/-- The key found is pressed and no lower one is. -/
theorem lowestPressed_eq_some {s : State} {k : Key} :
    lowestPressed s = some k ↔ s.getKey k = true ∧ ∀ j, j < k → s.getKey j = false := by
  unfold lowestPressed
  rw [List.find?_eq_some_iff_getElem]
  simp only [List.getElem_finRange, List.length_finRange, Fin.cast_mk, Bool.not_eq_true']
  constructor
  · rintro ⟨hk, i, hi, rfl, hlt⟩
    refine ⟨hk, fun j hj => ?_⟩
    simpa using hlt j.val hj
  · rintro ⟨hk, hlt⟩
    exact ⟨hk, k.val, k.isLt, rfl, fun j hj => hlt ⟨j, by omega⟩ hj⟩

theorem lowestPressed_eq_none {s : State} : lowestPressed s = none ↔ ∀ k, s.getKey k = false := by
  unfold lowestPressed
  simp [List.find?_eq_none]

/-! ### Blocks of registers (R105, R106) -/

@[simp] theorem length_regsUpTo (s : State) (x : Reg) : (regsUpTo s x).length = x.val + 1 := by
  simp [regsUpTo]

theorem getElem_regsUpTo (s : State) (x : Reg) (k : Nat) (h : k < (regsUpTo s x).length) :
    (regsUpTo s x)[k] = s.getV (Fin.ofNat 16 k) := by
  simp [regsUpTo]

/-- What a block load keeps: every field but the registers. -/
theorem State.loadRegsFrom_eq (s : State) (j : Nat) (bs : List Byte) :
    s.loadRegsFrom j bs = { s with V := (s.loadRegsFrom j bs).V } := by
  induction bs generalizing s j with
  | nil => rfl
  | cons b bs ih => rw [State.loadRegsFrom, ih]; rfl

/-- What a block load does to each register: byte `k` of the list goes to register `j + k`. -/
theorem State.getV_loadRegsFrom (s : State) (j : Nat) (bs : List Byte) (r : Reg) (h : j + bs.length ≤ 16) :
    (s.loadRegsFrom j bs).getV r =
      if hr : j ≤ r.val ∧ r.val - j < bs.length then bs[r.val - j]'hr.2 else s.getV r := by
  induction bs generalizing s j with
  | nil => simp [State.loadRegsFrom]
  | cons b bs ih =>
    simp only [List.length_cons] at h
    rw [State.loadRegsFrom, ih _ _ (by omega)]
    have hj : (Fin.ofNat 16 j).val = j := Nat.mod_eq_of_lt (by omega)
    by_cases hr : r.val = j
    · have hr' : r = Fin.ofNat 16 j := Fin.ext (by rw [hj, hr])
      rw [dif_neg (by omega), dif_pos ⟨by omega, by rw [List.length_cons]; omega⟩]
      simp only [hr, Nat.sub_self, List.getElem_cons_zero]
      rw [hr', State.getV_setV_same]
    · have hne : r ≠ Fin.ofNat 16 j := fun e => hr (by rw [e, hj])
      by_cases hle : j + 1 ≤ r.val
      · have e : r.val - j = r.val - (j + 1) + 1 := by omega
        simp only [hle, true_and, List.length_cons, show j ≤ r.val by omega, e, Nat.add_lt_add_iff_right,
          List.getElem_cons_succ, State.getV_setV_ne s b hne]
      · rw [dif_neg (by omega), dif_neg (by omega), State.getV_setV_ne s b hne]

/-- `I` after a block transfer, and nothing else (R105, R106). -/
theorem State.afterTransfer_eq (s : State) (x : Reg) :
    s.afterTransfer x =
      s.setI (if s.params.ldstI = .advance then s.I + BitVec.ofNat 16 (x.val + 1) else s.I) := by
  unfold State.afterTransfer
  cases h : s.params.ldstI <;> simp [State.setI]

/-! ### The flag and the result of a class-8 operation (R69) -/

/-- Only VF and Vx change. -/
theorem State.writeFlagged_eq (s : State) (x : Reg) (flag result : State → Byte) :
    s.writeFlagged x flag result = { s with V := (s.writeFlagged x flag result).V } := rfl

/-- Vx is the result, from the registers that `P_VF_ORDER` says. -/
theorem State.getV_writeFlagged_dest (s : State) (x : Reg) (flag result : State → Byte) :
    (s.writeFlagged x flag result).getV x =
      if s.params.vfOrder = .sampleFirst then result s else result (s.setV VF (flag s)) := by
  unfold State.writeFlagged
  cases h : s.params.vfOrder <;> simp

/-- VF is the flag where it is not the destination. -/
theorem State.getV_writeFlagged_VF (s : State) {x : Reg} (flag result : State → Byte) (hx : x ≠ VF) :
    (s.writeFlagged x flag result).getV VF = flag s := by
  unfold State.writeFlagged
  rw [State.getV_setV_ne _ _ hx.symm, State.getV_setV_same]

/-- No other register changes. -/
theorem State.getV_writeFlagged_other (s : State) {x r : Reg} (flag result : State → Byte) (hx : r ≠ x)
    (hf : r ≠ VF) : (s.writeFlagged x flag result).getV r = s.getV r := by
  unfold State.writeFlagged
  rw [State.getV_setV_ne _ _ hx, State.getV_setV_ne _ _ hf]

/-! ### Raising a model outcome (R114) -/

theorem raiseUndefined_eq (reason : Word → Word → Fault) (i : Instr) (s : State) :
    raiseUndefined reason i s = .fault (reason (encode i) (s.pc - 2#16)) := rfl

end Sys2Proof.Machine
end

