-- ==== Sys2Proof/Laws/PerInstr.lean ====
section
/-! SUPPORT. Facts about every instruction as syntax, one lemma per constructor. -/

namespace Sys2Proof.Laws

/-- The `match` and `mask` of the instruction's row of spec/opcode_table.json. -/
def tableRow : Instr → Word × Word
  | .cls _ => (0x00E0#16, 0xF0FF#16)
  | .ret _ => (0x00EE#16, 0xF0FF#16)
  | .sys _ => (0x0000#16, 0xF000#16)
  | .jp _ => (0x1000#16, 0xF000#16)
  | .call _ => (0x2000#16, 0xF000#16)
  | .seByte _ _ => (0x3000#16, 0xF000#16)
  | .sneByte _ _ => (0x4000#16, 0xF000#16)
  | .seReg _ _ _ => (0x5000#16, 0xF000#16)
  | .ldByte _ _ => (0x6000#16, 0xF000#16)
  | .addByte _ _ => (0x7000#16, 0xF000#16)
  | .ldReg _ _ => (0x8000#16, 0xF00F#16)
  | .orReg _ _ => (0x8001#16, 0xF00F#16)
  | .andReg _ _ => (0x8002#16, 0xF00F#16)
  | .xorReg _ _ => (0x8003#16, 0xF00F#16)
  | .addReg _ _ => (0x8004#16, 0xF00F#16)
  | .subReg _ _ => (0x8005#16, 0xF00F#16)
  | .shrReg _ _ => (0x8006#16, 0xF00F#16)
  | .subnReg _ _ => (0x8007#16, 0xF00F#16)
  | .shlReg _ _ => (0x800E#16, 0xF00F#16)
  | .sneReg _ _ _ => (0x9000#16, 0xF000#16)
  | .ldI _ => (0xA000#16, 0xF000#16)
  | .jpV0 _ => (0xB000#16, 0xF000#16)
  | .rnd _ _ => (0xC000#16, 0xF000#16)
  | .drw _ _ _ => (0xD000#16, 0xF000#16)
  | .skp _ => (0xE09E#16, 0xF0FF#16)
  | .sknp _ => (0xE0A1#16, 0xF0FF#16)
  | .ldDt _ => (0xF007#16, 0xF0FF#16)
  | .ldKey _ => (0xF00A#16, 0xF0FF#16)
  | .setDt _ => (0xF015#16, 0xF0FF#16)
  | .setSt _ => (0xF018#16, 0xF0FF#16)
  | .addI _ => (0xF01E#16, 0xF0FF#16)
  | .ldFont _ => (0xF029#16, 0xF0FF#16)
  | .ldBcd _ => (0xF033#16, 0xF0FF#16)
  | .storeRegs _ => (0xF055#16, 0xF0FF#16)
  | .loadRegs _ => (0xF065#16, 0xF0FF#16)
  | .undef88 _ _ => (0x8008#16, 0xF00F#16)
  | .undef89 _ _ => (0x8009#16, 0xF00F#16)
  | .undef8A _ _ => (0x800A#16, 0xF00F#16)
  | .undef8B _ _ => (0x800B#16, 0xF00F#16)
  | .undef8C _ _ => (0x800C#16, 0xF00F#16)
  | .undef8D _ _ => (0x800D#16, 0xF00F#16)
  | .undef8F _ _ => (0x800F#16, 0xF00F#16)
  | .undefE _ _ => (0xE000#16, 0xF000#16)
  | .undefF _ _ => (0xF000#16, 0xF000#16)

theorem and_append_append {v w : Nat} (a c : BitVec v) (b d : BitVec w) :
    (a ++ b) &&& (c ++ d) = (a &&& c) ++ (b &&& d) := by
  ext i hi
  simp only [BitVec.getElem_and, BitVec.getElem_append]
  split <;> rfl

theorem formatFA_and_F000 (op : BitVec 4) (nnn : Addr12) :
    formatFA op nnn &&& 0xF000#16 = formatFA op 0#12 :=
  (and_append_append op (BitVec.allOnes 4) nnn 0#12).trans (by
    rw [BitVec.and_allOnes, BitVec.and_zero]; rfl)

theorem formatFXK_and_F0FF (op : BitVec 4) (x : Reg) (kk : Byte) :
    formatFXK op x kk &&& 0xF0FF#16 = formatFXK op 0 kk :=
  (and_append_append (op ++ BitVec.ofFin (w := 4) x) (BitVec.allOnes 4 ++ 0#4) kk (BitVec.allOnes 8)).trans (by
    rw [and_append_append]; simp only [BitVec.and_allOnes, BitVec.and_zero]; rfl)

theorem formatFXYN_and_F00F (op : BitVec 4) (x y : Reg) (n : Nibble) :
    formatFXYN op x y n &&& 0xF00F#16 = formatFXYN op 0 0 n :=
  (and_append_append (op ++ BitVec.ofFin (w := 4) x ++ BitVec.ofFin (w := 4) y)
    (BitVec.allOnes 4 ++ 0#4 ++ 0#4) n (BitVec.allOnes 4)).trans (by
    rw [and_append_append, and_append_append]; simp only [BitVec.and_allOnes, BitVec.and_zero]; rfl)

theorem formatFXK_and_F000 (op : BitVec 4) (x : Reg) (kk : Byte) :
    formatFXK op x kk &&& 0xF000#16 = formatFA op 0#12 := by
  rw [← formatFA_and_F000 op (nnnOf (formatFXK op x kk))]
  conv_lhs => rw [← formatFA_fields (formatFXK op x kk), opOf_formatFXK]

theorem formatFXYN_and_F000 (op : BitVec 4) (x y : Reg) (n : Nibble) :
    formatFXYN op x y n &&& 0xF000#16 = formatFA op 0#12 := by
  rw [← formatFA_and_F000 op (nnnOf (formatFXYN op x y n))]
  conv_lhs => rw [← formatFA_fields (formatFXYN op x y n), opOf_formatFXYN]

/-- The instruction's word lies in its row of the opcode table (spec/30_encoding.md R60). -/
def MatchesRow.Statement (i : Instr) : Prop := encode i &&& (tableRow i).2 = (tableRow i).1

theorem MatchesRow.cls (x : Reg) : MatchesRow.Statement (.cls x) :=
  (formatFXK_and_F0FF _ _ _).trans rfl

theorem MatchesRow.ret (x : Reg) : MatchesRow.Statement (.ret x) :=
  (formatFXK_and_F0FF _ _ _).trans rfl

theorem MatchesRow.sys (nnn : Addr12) : MatchesRow.Statement (.sys nnn) :=
  (formatFA_and_F000 _ _).trans rfl

theorem MatchesRow.jp (nnn : Addr12) : MatchesRow.Statement (.jp nnn) :=
  (formatFA_and_F000 _ _).trans rfl

theorem MatchesRow.call (nnn : Addr12) : MatchesRow.Statement (.call nnn) :=
  (formatFA_and_F000 _ _).trans rfl

theorem MatchesRow.seByte (x : Reg) (kk : Byte) : MatchesRow.Statement (.seByte x kk) :=
  (formatFXK_and_F000 _ _ _).trans rfl

theorem MatchesRow.sneByte (x : Reg) (kk : Byte) : MatchesRow.Statement (.sneByte x kk) :=
  (formatFXK_and_F000 _ _ _).trans rfl

theorem MatchesRow.seReg (x y : Reg) (n : Nibble) : MatchesRow.Statement (.seReg x y n) :=
  (formatFXYN_and_F000 _ _ _ _).trans rfl

theorem MatchesRow.ldByte (x : Reg) (kk : Byte) : MatchesRow.Statement (.ldByte x kk) :=
  (formatFXK_and_F000 _ _ _).trans rfl

theorem MatchesRow.addByte (x : Reg) (kk : Byte) : MatchesRow.Statement (.addByte x kk) :=
  (formatFXK_and_F000 _ _ _).trans rfl

theorem MatchesRow.ldReg (x y : Reg) : MatchesRow.Statement (.ldReg x y) :=
  (formatFXYN_and_F00F _ _ _ _).trans rfl

theorem MatchesRow.orReg (x y : Reg) : MatchesRow.Statement (.orReg x y) :=
  (formatFXYN_and_F00F _ _ _ _).trans rfl

theorem MatchesRow.andReg (x y : Reg) : MatchesRow.Statement (.andReg x y) :=
  (formatFXYN_and_F00F _ _ _ _).trans rfl

theorem MatchesRow.xorReg (x y : Reg) : MatchesRow.Statement (.xorReg x y) :=
  (formatFXYN_and_F00F _ _ _ _).trans rfl

theorem MatchesRow.addReg (x y : Reg) : MatchesRow.Statement (.addReg x y) :=
  (formatFXYN_and_F00F _ _ _ _).trans rfl

theorem MatchesRow.subReg (x y : Reg) : MatchesRow.Statement (.subReg x y) :=
  (formatFXYN_and_F00F _ _ _ _).trans rfl

theorem MatchesRow.shrReg (x y : Reg) : MatchesRow.Statement (.shrReg x y) :=
  (formatFXYN_and_F00F _ _ _ _).trans rfl

theorem MatchesRow.subnReg (x y : Reg) : MatchesRow.Statement (.subnReg x y) :=
  (formatFXYN_and_F00F _ _ _ _).trans rfl

theorem MatchesRow.shlReg (x y : Reg) : MatchesRow.Statement (.shlReg x y) :=
  (formatFXYN_and_F00F _ _ _ _).trans rfl

theorem MatchesRow.sneReg (x y : Reg) (n : Nibble) : MatchesRow.Statement (.sneReg x y n) :=
  (formatFXYN_and_F000 _ _ _ _).trans rfl

theorem MatchesRow.ldI (nnn : Addr12) : MatchesRow.Statement (.ldI nnn) :=
  (formatFA_and_F000 _ _).trans rfl

theorem MatchesRow.jpV0 (nnn : Addr12) : MatchesRow.Statement (.jpV0 nnn) :=
  (formatFA_and_F000 _ _).trans rfl

theorem MatchesRow.rnd (x : Reg) (kk : Byte) : MatchesRow.Statement (.rnd x kk) :=
  (formatFXK_and_F000 _ _ _).trans rfl

theorem MatchesRow.drw (x y : Reg) (n : Nibble) : MatchesRow.Statement (.drw x y n) :=
  (formatFXYN_and_F000 _ _ _ _).trans rfl

theorem MatchesRow.skp (x : Reg) : MatchesRow.Statement (.skp x) :=
  (formatFXK_and_F0FF _ _ _).trans rfl

theorem MatchesRow.sknp (x : Reg) : MatchesRow.Statement (.sknp x) :=
  (formatFXK_and_F0FF _ _ _).trans rfl

theorem MatchesRow.ldDt (x : Reg) : MatchesRow.Statement (.ldDt x) :=
  (formatFXK_and_F0FF _ _ _).trans rfl

theorem MatchesRow.ldKey (x : Reg) : MatchesRow.Statement (.ldKey x) :=
  (formatFXK_and_F0FF _ _ _).trans rfl

theorem MatchesRow.setDt (x : Reg) : MatchesRow.Statement (.setDt x) :=
  (formatFXK_and_F0FF _ _ _).trans rfl

theorem MatchesRow.setSt (x : Reg) : MatchesRow.Statement (.setSt x) :=
  (formatFXK_and_F0FF _ _ _).trans rfl

theorem MatchesRow.addI (x : Reg) : MatchesRow.Statement (.addI x) :=
  (formatFXK_and_F0FF _ _ _).trans rfl

theorem MatchesRow.ldFont (x : Reg) : MatchesRow.Statement (.ldFont x) :=
  (formatFXK_and_F0FF _ _ _).trans rfl

theorem MatchesRow.ldBcd (x : Reg) : MatchesRow.Statement (.ldBcd x) :=
  (formatFXK_and_F0FF _ _ _).trans rfl

theorem MatchesRow.storeRegs (x : Reg) : MatchesRow.Statement (.storeRegs x) :=
  (formatFXK_and_F0FF _ _ _).trans rfl

theorem MatchesRow.loadRegs (x : Reg) : MatchesRow.Statement (.loadRegs x) :=
  (formatFXK_and_F0FF _ _ _).trans rfl

theorem MatchesRow.undef88 (x y : Reg) : MatchesRow.Statement (.undef88 x y) :=
  (formatFXYN_and_F00F _ _ _ _).trans rfl

theorem MatchesRow.undef89 (x y : Reg) : MatchesRow.Statement (.undef89 x y) :=
  (formatFXYN_and_F00F _ _ _ _).trans rfl

theorem MatchesRow.undef8A (x y : Reg) : MatchesRow.Statement (.undef8A x y) :=
  (formatFXYN_and_F00F _ _ _ _).trans rfl

theorem MatchesRow.undef8B (x y : Reg) : MatchesRow.Statement (.undef8B x y) :=
  (formatFXYN_and_F00F _ _ _ _).trans rfl

theorem MatchesRow.undef8C (x y : Reg) : MatchesRow.Statement (.undef8C x y) :=
  (formatFXYN_and_F00F _ _ _ _).trans rfl

theorem MatchesRow.undef8D (x y : Reg) : MatchesRow.Statement (.undef8D x y) :=
  (formatFXYN_and_F00F _ _ _ _).trans rfl

theorem MatchesRow.undef8F (x y : Reg) : MatchesRow.Statement (.undef8F x y) :=
  (formatFXYN_and_F00F _ _ _ _).trans rfl

theorem MatchesRow.undefE (x : Reg) (kk : Byte) : MatchesRow.Statement (.undefE x kk) :=
  (formatFXK_and_F000 _ _ _).trans rfl

theorem MatchesRow.undefF (x : Reg) (kk : Byte) : MatchesRow.Statement (.undefF x kk) :=
  (formatFXK_and_F000 _ _ _).trans rfl

end Sys2Proof.Laws
end

