-- ==== Sys2Proof/Laws/Step.lean ====
section
/-! SUPPORT. Everything one step can do, and what the fetch and the advance are. -/

namespace Sys2Proof.Machine

theorem State.canFetch_iff (s : State) : s.canFetch = true ↔ s.pc.toNat ≤ 0xFFE := by
  simp [State.canFetch]

/-- The fetched word as a number (R44). -/
theorem State.toNat_fetchWord (s : State) :
    s.fetchWord.toNat = (s.readByte s.pc.toNat).toNat * 256 + (s.readByte (s.pc.toNat + 1)).toNat :=
  toNat_wordOfBytes _ _

/-- The advance as a number, where a fetch is defined: the wrap is not reached (R67). -/
theorem State.toNat_pc_advance {s : State} (h : s.canFetch = true) : s.advance.pc.toNat = s.pc.toNat + 2 := by
  rw [State.canFetch_iff] at h
  rw [State.advance_pc, BitVec.toNat_add]
  exact Nat.mod_eq_of_lt (by simp; omega)

/-- A step that answers a next state fetched at a defined `pc` and ran the decoded instruction. -/
theorem step_eq_next {s t : State} :
    step s = .next t ↔
      s.mark = none ∧ s.canFetch = true ∧ exec (decodeWord s.fetchWord) s.advance = .next t := by
  unfold step
  cases hm : s.mark with
  | some f => simp
  | none => by_cases hf : s.canFetch = true <;> simp [hf]

/-- A step of an unmarked engine at a defined `pc`. -/
theorem step_eq_exec {s : State} (hm : s.mark = none) (hf : s.canFetch = true) :
    step s = exec (decodeWord s.fetchWord) s.advance := by
  simp [step, hm, hf]

theorem step_eq_fault_of_mark {s : State} {f : Fault} (hm : s.mark = some f) : step s = .fault f := by
  simp [step, hm]

theorem step_eq_stuck {s : State} (hm : s.mark = none) (hf : s.canFetch = false) :
    step s = .fault (.fetchOutOfRange s.pc) := by
  simp [step, hm, hf]

/-- What a host-level step can do. -/
theorem hostStep_cases (s : State) :
    (∃ f, s.mark = some f ∧ hostStep s = s) ∨
    (s.mark = none ∧ ∃ t, step s = .next t ∧ hostStep s = t) ∨
    (s.mark = none ∧ ∃ f, step s = .fault f ∧ hostStep s = markFault s f) ∨
    (s.mark = none ∧ ∃ r, step s = .refused r ∧ hostStep s = s) := by
  unfold hostStep
  cases hm : s.mark with
  | some f => exact .inl ⟨f, rfl, rfl⟩
  | none =>
    cases hs : step s with
    | next t => exact .inr (.inl ⟨rfl, t, rfl, rfl⟩)
    | fault f => exact .inr (.inr (.inl ⟨rfl, f, rfl, rfl⟩))
    | refused r => exact .inr (.inr (.inr ⟨rfl, r, rfl, rfl⟩))

theorem runSchedule_append (s : State) (ops ops' : List HostOp) :
    runSchedule s (ops ++ ops') = runSchedule (runSchedule s ops) ops' := by
  induction ops generalizing s with
  | nil => rfl
  | cons op ops ih => exact ih (op.apply s)

/-- An infinite schedule is the run of each of its finite beginnings (R136). -/
theorem stateAt_eq_runSchedule (schedule : Nat → HostOp) (s : State) (n : Nat) :
    stateAt schedule s n = runSchedule s ((List.range n).map schedule) := by
  induction n with
  | zero => rfl
  | succ n ih =>
    rw [List.range_succ, List.map_append, runSchedule_append, ← ih]
    rfl

/-- A frame from the equality of the fields outside it is a frame from their accessors: two states that differ
in the registers alone. -/
theorem Frame.of_V {s : State} {v : Vector Byte 16} {changed : Component → Prop}
    (h : ∀ r : Reg, ¬ changed (.V r) → ({ s with V := v } : State).getV r = s.getV r) :
    Frame changed s { s with V := v } := by
  intro c hc
  cases c with
  | V r => exact h r hc
  | _ => rfl

/-- Two states that differ in memory alone. -/
theorem Frame.of_memory {s : State} {m : Memory} {changed : Component → Prop}
    (h : ∀ a, ¬ changed (.byte a) → ({ s with memory := m } : State).readByte a = s.readByte a) :
    Frame changed s { s with memory := m } := by
  intro c hc
  cases c with
  | byte a => exact h a hc
  | _ => rfl

end Sys2Proof.Machine
end

