-- ==== Sys2Proof/Tests/Slice0.lean ====
section
/-! SUPPORT. The model's own tests: ill-formed terms that WellFormed refuses, a word of every constructor written
out from the formats of spec/30_encoding.md, one step of every instruction with the outcome that
spec/95_test_vectors.md gives, and, for every statement of Obligations.lean that has hypotheses, a witness that
meets them. Expected values come from spec/95_test_vectors.md and the rules' own examples. -/

open Sys2Proof Sys2Proof.Machine Sys2Proof.Spec

namespace Sys2Proof.Tests

set_option Elab.async false

/-! ### Well-formedness (R59, R60) -/

theorem test_sys_with_low_byte_E0_is_ill_formed : ¬ (Instr.sys 0x5E0#12).WellFormed := by decide
theorem test_sys_with_low_byte_EE_is_ill_formed : ¬ (Instr.sys 0x0EE#12).WellFormed := by decide
theorem test_undefE_with_defined_subopcode_is_ill_formed :
    ¬ (Instr.undefE 1 0x9E#8).WellFormed ∧ ¬ (Instr.undefE 1 0xA1#8).WellFormed := by decide
theorem test_undefF_with_defined_subopcode_is_ill_formed :
    ∀ kk ∈ [0x07#8, 0x0A#8, 0x15#8, 0x18#8, 0x1E#8, 0x29#8, 0x33#8, 0x55#8, 0x65#8],
      ¬ (Instr.undefF 2 kk).WellFormed := by decide
theorem test_fallback_rows_are_well_formed_elsewhere :
    (Instr.sys 0x123#12).WellFormed ∧ (Instr.undefE 1 0x9F#8).WellFormed ∧ (Instr.undefF 1 0xFF#8).WellFormed := by
  decide

/-! ### Words written out bit by bit (R56, R60) -/

theorem test_decode_class_0 :
    decodeWord 0b0000010111100000#16 = .cls 0x5 ∧ decodeWord 0b0000001111101110#16 = .ret 0x3 ∧
    decodeWord 0b0000000100100011#16 = .sys 0x123#12 := by decide
theorem test_decode_classes_1_and_2 :
    decodeWord 0b0001001000110100#16 = .jp 0x234#12 ∧ decodeWord 0b0010001000010000#16 = .call 0x210#12 := by decide
theorem test_decode_classes_3_to_5 :
    decodeWord 0b0011001101000010#16 = .seByte 0x3 0x42#8 ∧ decodeWord 0b0100101010111100#16 = .sneByte 0xA 0xBC#8 ∧
    decodeWord 0b0101000100100111#16 = .seReg 0x1 0x2 0x7#4 := by decide
theorem test_decode_classes_6_and_7 :
    decodeWord 0b0110101000000101#16 = .ldByte 0xA 0x05#8 ∧
    decodeWord 0b0111000100000011#16 = .addByte 0x1 0x03#8 := by decide
theorem test_decode_class_8 :
    decodeWord 0b1000000100100000#16 = .ldReg 0x1 0x2 ∧ decodeWord 0b1000000100100001#16 = .orReg 0x1 0x2 ∧
    decodeWord 0b1000000100100010#16 = .andReg 0x1 0x2 ∧ decodeWord 0b1000000100100011#16 = .xorReg 0x1 0x2 ∧
    decodeWord 0b1000111100010100#16 = .addReg 0xF 0x1 ∧ decodeWord 0b1000000100100101#16 = .subReg 0x1 0x2 ∧
    decodeWord 0b1000000100100110#16 = .shrReg 0x1 0x2 ∧ decodeWord 0b1000000100100111#16 = .subnReg 0x1 0x2 ∧
    decodeWord 0b1000000100101110#16 = .shlReg 0x1 0x2 := by decide
theorem test_decode_class_8_undefined :
    decodeWord 0b1000101010111000#16 = .undef88 0xA 0xB ∧ decodeWord 0b1000101010111001#16 = .undef89 0xA 0xB ∧
    decodeWord 0b1000101010111010#16 = .undef8A 0xA 0xB ∧ decodeWord 0b1000101010111011#16 = .undef8B 0xA 0xB ∧
    decodeWord 0b1000101010111100#16 = .undef8C 0xA 0xB ∧ decodeWord 0b1000101010111101#16 = .undef8D 0xA 0xB ∧
    decodeWord 0b1000101010111111#16 = .undef8F 0xA 0xB := by decide
theorem test_decode_classes_9_to_D :
    decodeWord 0b1001000100101111#16 = .sneReg 0x1 0x2 0xF#4 ∧ decodeWord 0b1010001100000000#16 = .ldI 0x300#12 ∧
    decodeWord 0b1011001100000000#16 = .jpV0 0x300#12 ∧ decodeWord 0b1100001100001111#16 = .rnd 0x3 0x0F#8 ∧
    decodeWord 0b1101000100100101#16 = .drw 0x1 0x2 0x5#4 := by decide
theorem test_decode_class_E :
    decodeWord 0b1110010110011110#16 = .skp 0x5 ∧ decodeWord 0b1110010110100001#16 = .sknp 0x5 ∧
    decodeWord 0b1110000110011111#16 = .undefE 0x1 0x9F#8 := by decide
theorem test_decode_class_F :
    decodeWord 0b1111001100000111#16 = .ldDt 0x3 ∧ decodeWord 0b1111000100001010#16 = .ldKey 0x1 ∧
    decodeWord 0b1111001100010101#16 = .setDt 0x3 ∧ decodeWord 0b1111010000011000#16 = .setSt 0x4 ∧
    decodeWord 0b1111001000011110#16 = .addI 0x2 ∧ decodeWord 0b1111101000101001#16 = .ldFont 0xA ∧
    decodeWord 0b1111010100110011#16 = .ldBcd 0x5 ∧ decodeWord 0b1111001001010101#16 = .storeRegs 0x2 ∧
    decodeWord 0b1111001001100101#16 = .loadRegs 0x2 ∧ decodeWord 0b1111000111111111#16 = .undefF 0x1 0xFF#8 := by
  decide
theorem test_decodeTableWord_is_big_endian : decodeTableWord 16 0x6A05 = some (.ldByte 0xA 0x05#8) := by decide
theorem test_decode_of_one_byte_is_truncated : decode [0x6A#8] = .error .truncated := by rfl

/-! ### One step of each instruction (spec/95_test_vectors.md) -/

/-- The word `w` run by one step from the state `s`, placed at its `pc`. -/
def run (w : Nat) (s : State) : Out := step (s.withFetchWord 16 w)

/-- The outcome is a next state with the property `p`. -/
def ends (o : Out) (p : State → Bool) : Bool :=
  match o with
  | .next t => p t
  | .fault _ => false
  | .refused _ => false

/-- The outcome is the fault `f`. -/
def faults (o : Out) (f : Fault) : Bool :=
  match o with
  | .next _ => false
  | .fault g => g == f
  | .refused _ => false

theorem ends_iff {o : Out} {p : State → Bool} : ends o p = true ↔ ∃ t, o = .next t ∧ p t = true := by
  cases o <;> simp [ends]

theorem faults_iff {o : Out} {f : Fault} : faults o f = true ↔ o = .fault f := by
  cases o <;> simp [faults]

/-- The reset state with two registers set. -/
def withV (x : Reg) (a : Byte) (y : Reg) (b : Byte) : State := (State.reset.setV x a).setV y b

/-- A state under the other setting of a parameter. -/
def flagFirst (s : State) : State := { s with params := { s.params with vfOrder := .flagFirst } }
def shiftsVy (s : State) : State := { s with params := { s.params with shiftSrc := .vy } }
def advancesI (s : State) : State := { s with params := { s.params with ldstI := .advance } }

/-- A state with one return address on the stack. -/
def withReturn (s : State) (a : Word) : State := { s with stack := s.stack.set 0 a, SP := 1 }

theorem test_cls_clears_and_keeps_VF :
    ends (run 0x05E0 (((withV 0xF 3 0 0).setFb (Vector.replicate 32 0x8001#64)))) (fun t => t.fb == Vector.replicate 32 0#64 && t.getV 0xF == 3 && t.pc == 0x202#16) = true := by decide +kernel
theorem test_sys_is_a_no_op :
    ends (run 0x0123 (State.reset)) (fun t => t == (State.reset.withFetchWord 16 0x0123).setPc 0x202#16) = true := by decide +kernel
theorem test_jp :
    ends (run 0x1200 (State.reset.setPc 0x202#16)) (fun t => t.pc == 0x200#16) = true := by decide +kernel
theorem test_call_pushes :
    ends (run 0x2210 (State.reset.setPc 0x204#16))
      (fun t => t.pc == 0x210#16 && t.SP == 1 && t.getStack 0 == 0x206#16) = true := by decide +kernel
theorem test_call_on_a_full_stack_is_dropped :
    ends (run 0x2210 { State.reset with pc := 0x204#16, SP := 16 })
      (fun t => t.pc == 0x206#16 && t.SP == 16 && t.stack == State.reset.stack) = true := by decide +kernel
theorem test_ret_pops :
    ends (run 0x03EE { State.reset with pc := 0x210#16, SP := 1, stack := State.reset.stack.set 0 0x206#16 })
      (fun t => t.pc == 0x206#16 && t.SP == 0 && t.getStack 0 == 0x206#16) = true := by decide +kernel
theorem test_ret_on_an_empty_stack_is_a_no_op :
    ends (run 0x00EE State.reset) (fun t => t.pc == 0x202#16 && t.SP == 0) = true := by decide +kernel
theorem test_se_byte_taken :
    ends (run 0x3342 (withV 3 0x42 0 0)) (fun t => t.pc == 0x204#16) = true := by decide +kernel
theorem test_se_byte_not_taken :
    ends (run 0x3341 (withV 3 0x42 0 0)) (fun t => t.pc == 0x202#16) = true := by decide +kernel
theorem test_sne_byte_taken :
    ends (run 0x4341 (withV 3 0x42 0 0)) (fun t => t.pc == 0x204#16) = true := by decide +kernel
theorem test_sne_byte_not_taken :
    ends (run 0x4342 (withV 3 0x42 0 0)) (fun t => t.pc == 0x202#16) = true := by decide +kernel
theorem test_se_reg_ignores_n :
    ends (run 0x5127 (withV 1 7 2 7)) (fun t => t.pc == 0x204#16) = true := by decide +kernel
theorem test_sne_reg_ignores_n :
    ends (run 0x912F (withV 1 7 2 8)) (fun t => t.pc == 0x204#16) = true := by decide +kernel
theorem test_sne_reg_same_register :
    ends (run 0x9110 (State.reset)) (fun t => t.pc == 0x202#16) = true := by decide +kernel
theorem test_jp_v0_largest :
    ends (run 0xBFFF (withV 0 0xFF 0xF 1)) (fun t => t.pc == 0x10FE#16) = true := by decide +kernel
theorem test_ld_byte :
    ends (run 0x6A05 (State.reset)) (fun t => t.getV 0xA == 5) = true := by decide +kernel
theorem test_add_byte_wraps_without_flag :
    ends (run 0x7103 (withV 1 0xFE 0xF 7)) (fun t => t.getV 1 == 1 && t.getV 0xF == 7) = true := by decide +kernel
theorem test_ld_reg :
    ends (run 0x8120 (withV 2 0x33 1 0)) (fun t => t.getV 1 == 0x33) = true := by decide +kernel
theorem test_or_keeps_VF :
    ends (run 0x8121 ((withV 1 0x0F 2 0xF0).setV 0xF 0x55)) (fun t => t.getV 1 == 0xFF && t.getV 0xF == 0x55) = true := by decide +kernel
theorem test_and_keeps_VF :
    ends (run 0x8122 ((withV 1 0x3C 2 0x0F).setV 0xF 0x55)) (fun t => t.getV 1 == 0x0C && t.getV 0xF == 0x55) = true := by decide +kernel
theorem test_xor_keeps_VF :
    ends (run 0x8123 ((withV 1 0x3C 2 0x0F).setV 0xF 0x55)) (fun t => t.getV 1 == 0x33 && t.getV 0xF == 0x55) = true := by decide +kernel
theorem test_add_sets_carry :
    ends (run 0x8124 (withV 1 0xC8 2 0x64)) (fun t => t.getV 1 == 0x2C && t.getV 0xF == 1) = true := by decide +kernel
theorem test_add_into_VF_flag_first :
    ends (run 0x8F14 (flagFirst (withV 0xF 0x80 1 0x80))) (fun t => t.getV 0xF == 0x81) = true := by decide +kernel
theorem test_sub_borrows :
    ends (run 0x8125 (withV 1 5 2 7)) (fun t => t.getV 1 == 0xFE && t.getV 0xF == 0) = true := by decide +kernel
theorem test_sub_into_VF :
    ends (run 0x8F15 (withV 0xF 0x10 1 0x20)) (fun t => t.getV 0xF == 0xF0) = true := by decide +kernel
theorem test_subn_no_borrow :
    ends (run 0x8127 (withV 1 5 2 7)) (fun t => t.getV 1 == 2 && t.getV 0xF == 1) = true := by decide +kernel
theorem test_subn_into_VF_flag_first :
    ends (run 0x8F17 (flagFirst (withV 0xF 0x20 1 0x10))) (fun t => t.getV 0xF == 0x10) = true := by decide +kernel
theorem test_shr_ignores_y :
    ends (run 0x8126 (withV 1 4 2 3)) (fun t => t.getV 1 == 2 && t.getV 0xF == 0) = true := by decide +kernel
theorem test_shr_of_Vy :
    ends (run 0x8126 (shiftsVy (withV 1 4 2 3))) (fun t => t.getV 1 == 1 && t.getV 0xF == 1) = true := by decide +kernel
theorem test_shl_drops_the_high_bit :
    ends (run 0x810E (withV 1 0x81 2 0)) (fun t => t.getV 1 == 2 && t.getV 0xF == 1) = true := by decide +kernel
theorem test_shl_of_Vy :
    ends (run 0x812E (shiftsVy (withV 1 1 2 0x80))) (fun t => t.getV 1 == 0 && t.getV 0xF == 1) = true := by decide +kernel
theorem test_rnd_takes_one_draw :
    ends (run 0xC30F State.reset) (fun t => t.draws == 1 && t.pc == 0x202#16) = true := by decide +kernel
theorem test_rnd_with_mask_0 : ends (exec (.rnd 3 0#8) State.reset) (fun t => t.getV 3 == 0) = true := by
  simp [ends, exec, execRnd, State.getV, State.setV]
theorem test_ld_I :
    ends (run 0xA300 (State.reset)) (fun t => t.I == 0x300#16) = true := by decide +kernel
theorem test_add_I_wraps_at_16_bits :
    ends (run 0xF21E ((withV 2 2 0xF 0).setI 0xFFFF#16)) (fun t => t.I == 1#16 && t.getV 0xF == 0) = true := by decide +kernel
theorem test_add_I_past_FFF :
    ends (run 0xF21E ((withV 2 2 0xF 0).setI 0xFFF#16)) (fun t => t.I == 0x1001#16) = true := by decide +kernel
theorem test_ld_font_unmasked :
    ends (run 0xF329 (withV 3 0xFF 0 0)) (fun t => t.I == 0x4FB#16) = true := by decide +kernel
theorem test_ld_bcd_at_the_last_bytes :
    ends (run 0xF533 ((withV 5 123 0 0).setI 0xFFD#16)) (fun t => t.readByte 0xFFD == 1 && t.readByte 0xFFE == 2 && t.readByte 0xFFF == 3 && t.I == 0xFFD#16) = true := by decide +kernel
theorem test_ld_bcd_out_of_range_faults :
    faults (run 0xF533 ((withV 5 1 0 0).setI 0xFFE#16)) (.memOutOfRange 0x1000 0xF533#16 0x200#16) = true := by
  decide +kernel
theorem test_store_regs_advances_I :
    ends (run 0xF255 (advancesI ((((withV 0 1 1 2).setV 2 3)).setI 0x300#16))) (fun t => t.readByte 0x300 == 1 && t.readByte 0x301 == 2 && t.readByte 0x302 == 3 && t.readByte 0x303 == 0 && t.I == 0x303#16) = true := by decide +kernel
theorem test_store_regs_from_I_above_FFF_faults :
    faults (run 0xF055 (State.reset.setI 0x1001#16)) (.memOutOfRange 0x1001 0xF055#16 0x200#16) = true := by decide +kernel
theorem test_load_regs_keeps_higher_registers :
    ends (run 0xF065 (((withV 1 0x77 0 0).writeByte 0x300 0xAB).setI 0x300#16)) (fun t => t.getV 0 == 0xAB && t.getV 1 == 0x77 && t.I == 0x300#16) = true := by decide +kernel
theorem test_load_regs_into_VF :
    ends (run 0xFF65 ((State.reset.writeByte 0x30F 0x1F).setI 0x300#16)) (fun t => t.getV 0xF == 0x1F) = true := by decide +kernel
theorem test_drw_glyph_0_then_wraps :
    ends (run 0xD123 (((withV 1 0 2 0x1F).writeBytes 0x300 [0x80#8, 0x80#8, 0x80#8]).setI 0x300#16)) (fun t => t.pixel 0 31 && t.pixel 0 0 && t.pixel 0 1 && !t.pixel 7 0 && t.getV 0xF == 0) = true := by decide +kernel
theorem test_drw_reads_the_coordinate_before_clearing_VF :
    ends (run 0xDF11 (((withV 0xF 5 1 0).writeByte 0x300 0xC0#8).setI 0x300#16 |>.setFb ((Vector.replicate 32 0#64).set 0 0x40#64))) (fun t => t.pixel 5 0 && !t.pixel 6 0 && t.getV 0xF == 1) = true := by decide +kernel
theorem test_skp_pressed :
    ends (run 0xE59E ((withV 5 0xA 0 0).setKey 0xA true)) (fun t => t.pc == 0x204#16) = true := by decide +kernel
theorem test_skp_with_a_bad_key_faults :
    faults (run 0xE59E (withV 5 0x10 0 0)) (.keyIndexOutOfRange 0x10#8 0xE59E#16 0x200#16) = true := by decide +kernel
theorem test_sknp_released :
    ends (run 0xE5A1 (withV 5 0xA 0 0)) (fun t => t.pc == 0x204#16) = true := by decide +kernel
theorem test_sknp_pressed :
    ends (run 0xE5A1 ((withV 5 0xA 0 0).setKey 0xA true)) (fun t => t.pc == 0x202#16) = true := by decide +kernel
theorem test_ld_dt :
    ends (run 0xF307 (State.reset.setDT 0x3C)) (fun t => t.getV 3 == 0x3C && t.DT == 0x3C) = true := by decide +kernel
theorem test_ld_key_latches_the_lowest :
    ends (run 0xF10A ((State.reset.setKey 3 true).setKey 7 true)) (fun t => t.getV 1 == 3 && t.pc == 0x202#16) = true := by decide +kernel
theorem test_ld_key_waits :
    ends (run 0xF10A (withV 1 9 0 0)) (fun t => t.getV 1 == 9 && t.pc == 0x200#16) = true := by decide +kernel
theorem test_set_dt :
    ends (run 0xF415 (withV 4 1 0 0)) (fun t => t.DT == 1) = true := by decide +kernel
theorem test_set_st :
    ends (run 0xF418 (withV 4 2 0 0)) (fun t => t.ST == 2 && readSound t) = true := by decide +kernel
theorem test_undef88_is_a_no_op :
    ends (run 0x8AB8 (State.reset)) (fun t => t.pc == 0x202#16 && t.V == State.reset.V && t.I == 0 && t.DT == 0) = true := by decide +kernel
theorem test_undef89_is_a_no_op :
    ends (run 0x8AB9 (State.reset)) (fun t => t.pc == 0x202#16 && t.V == State.reset.V && t.I == 0 && t.DT == 0) = true := by decide +kernel
theorem test_undef8A_is_a_no_op :
    ends (run 0x8ABA (State.reset)) (fun t => t.pc == 0x202#16 && t.V == State.reset.V && t.I == 0 && t.DT == 0) = true := by decide +kernel
theorem test_undef8B_is_a_no_op :
    ends (run 0x8ABB (State.reset)) (fun t => t.pc == 0x202#16 && t.V == State.reset.V && t.I == 0 && t.DT == 0) = true := by decide +kernel
theorem test_undef8C_is_a_no_op :
    ends (run 0x8ABC (State.reset)) (fun t => t.pc == 0x202#16 && t.V == State.reset.V && t.I == 0 && t.DT == 0) = true := by decide +kernel
theorem test_undef8D_is_a_no_op :
    ends (run 0x8ABD (State.reset)) (fun t => t.pc == 0x202#16 && t.V == State.reset.V && t.I == 0 && t.DT == 0) = true := by decide +kernel
theorem test_undef8F_is_a_no_op :
    ends (run 0x8ABF (State.reset)) (fun t => t.pc == 0x202#16 && t.V == State.reset.V && t.I == 0 && t.DT == 0) = true := by decide +kernel
theorem test_undefE_is_a_no_op :
    ends (run 0xE19F (State.reset)) (fun t => t.pc == 0x202#16 && t.V == State.reset.V && t.I == 0 && t.DT == 0) = true := by decide +kernel
theorem test_undefF_is_a_no_op :
    ends (run 0xF1FF (State.reset)) (fun t => t.pc == 0x202#16 && t.V == State.reset.V && t.I == 0 && t.DT == 0) = true := by decide +kernel

/-! ### Fetch, tick and load (spec/95_test_vectors.md 2.1, 2.6, 2.7) -/

theorem test_step_at_odd_pc :
    ends (step { (State.reset.writeBytes 0x301 [0x61#8, 0x77#8]) with pc := 0x301#16 })
      (fun t => t.getV 1 == 0x77 && t.pc == 0x303#16) = true := by decide +kernel
theorem test_step_past_memory_is_stuck :
    faults (step (State.reset.setPc 0x1000#16)) (.fetchOutOfRange 0x1000#16) = true := by decide +kernel
theorem test_reset_runs_sys_no_ops : 
    ends (step State.reset) (fun t => t == State.reset.setPc 0x202#16) = true := by decide +kernel
theorem test_tick_saturates :
    tick (State.reset.setST 2) = State.reset.setST 1 ∧ tick State.reset = State.reset := by decide +kernel
theorem test_load_of_four_bytes :
    (load [0x00#8, 0xE0#8, 0x12#8, 0x00#8] State.reset).memory = [(0x201, 0xE0#8), (0x202, 0x12#8)] := by decide +kernel
theorem test_core_is_this_machine : Sys2Proof.core.step = step ∧ Sys2Proof.core.reset = State.reset := ⟨rfl, rfl⟩

/-! ### Witnesses: for every statement with hypotheses, a concrete input that meets them -/

/-- A word with a memory block at the last address it may reach, and one past it. -/
def drawAt (i : Word) : State := State.reset.setI i

theorem test_witness_DecodeOfEncode : (Instr.sys 0x0E1#12).WellFormed ∧ (Instr.undefF 0xF 0x66#8).WellFormed := by decide
theorem test_witness_UnreadBits : State.reset.params.shiftSrc = .vx := by decide
theorem test_witness_StepRuns :
    (State.reset.mark = none ∧ State.reset.pc.toNat ≤ 0xFFE) ∧
    ((State.reset.setPc 0xFFE#16).mark = none ∧ (State.reset.setPc 0xFFE#16).pc.toNat ≤ 0xFFE) := by decide
theorem test_witness_FetchPastMemory :
    let s := State.reset.setPc 0xFFF#16
    s.mark = none ∧ 0xFFE < s.pc.toNat ∧ HostOp.load [] ≠ HostOp.reset := by decide
theorem test_witness_AMarkEndsTheRun :
    (State.reset.setMark (some (.fetchOutOfRange 0xFFF#16))).mark = some (.fetchOutOfRange 0xFFF#16) ∧
    HostOp.reset ∉ [HostOp.step, HostOp.tick, HostOp.load [0x12#8], HostOp.setKey 0xF true] := by decide
theorem test_witness_UndefinedLeaves :
    let s := ((State.reset.setI 0xFFE#16).withFetchWord 16 0xD123)
    s.mark = none ∧ s.pc.toNat ≤ 0xFFE ∧ step s = .fault (.memOutOfRange 0x1000 0xD123#16 0x200#16) :=
  ⟨by decide +kernel, by decide +kernel, faults_iff.1 (by decide +kernel)⟩

/-- One instruction of each constructor, on operands that no outcome of R114 stops. -/
def oneOfEach1 : List Instr :=
  [.cls 0, .ret 0, .sys 0x123#12, .jp 0x200#12, .call 0x210#12, .seByte 3 0x42#8, .sneByte 3 0x42#8, .seReg 1 2 0#4,
    .ldByte 0xA 5#8, .addByte 1 3#8, .ldReg 1 2, .orReg 1 2, .andReg 1 2, .xorReg 1 2, .addReg 1 2, .subReg 1 2,
    .shrReg 1 2, .subnReg 1 2, .shlReg 1 2, .sneReg 1 2 0#4, .ldI 0x300#12, .jpV0 0x300#12, .rnd 3 0xF#8]
def oneOfEach2 : List Instr :=
  [.drw 1 2 5#4, .skp 5, .sknp 5, .ldDt 3, .ldKey 1, .setDt 3, .setSt 4, .addI 2, .ldFont 0xA, .ldBcd 5, .storeRegs 2,
    .loadRegs 2, .undef88 1 2, .undef89 1 2, .undef8A 1 2, .undef8B 1 2, .undef8C 1 2, .undef8D 1 2, .undef8F 1 2,
    .undefE 1 0x9F#8, .undefF 1 0xFF#8]
def oneOfEach : List Instr := oneOfEach1 ++ oneOfEach2

theorem test_witness_EveryInstructionCompletes :
    oneOfEach.length = 44 ∧ ∀ i ∈ oneOfEach, undefinedOutcome i State.reset = none := by decide +kernel
theorem test_witness_EveryInstructionRaises :
    undefinedOutcome (.drw 1 2 1#4) (drawAt 0x1000#16) = some (.memOutOfRange 0x1000 0xD121#16 0x1FE#16) ∧
    undefinedOutcome (.drw 1 2 0#4) (drawAt 0x1000#16) = none ∧
    undefinedOutcome (.ldBcd 1) (drawAt 0xFFD#16) = none ∧
    undefinedOutcome (.ldBcd 1) (drawAt 0xFFE#16) = some (.memOutOfRange 0x1000 0xF133#16 0x1FE#16) ∧
    undefinedOutcome (.storeRegs 0xF) (drawAt 0xFF0#16) = none ∧
    undefinedOutcome (.loadRegs 0xF) (drawAt 0xFF1#16) = some (.memOutOfRange 0x1000 0xFF65#16 0x1FE#16) ∧
    undefinedOutcome (.skp 1) (withV 1 0xF 0 0) = none ∧
    undefinedOutcome (.sknp 1) (withV 1 0x10 0 0) = some (.keyIndexOutOfRange 0x10#8 0xE1A1#16 0x1FE#16) := by
  decide +kernel
theorem test_witness_NoStepIsRefused : State.reset.mark = none := by decide
theorem test_witness_MemoryBlocks_fault :
    let s := drawAt 0xFFE#16
    bytesAtI (.drw 1 2 3#4) = some 3 ∧ s.I.toNat ≤ 0x1000 ∧ 0x1000 < s.I.toNat + 3 ∧ 0xFFF < 0x1000 ∧
      ∀ b, s.I.toNat ≤ b → b < 0x1000 → b ≤ 0xFFF := by
  refine ⟨by decide, by decide, by decide, by decide, fun b _ h => by omega⟩
theorem test_witness_MemoryBlocks_complete :
    bytesAtI (.storeRegs 0xF) = some 16 ∧
      ∀ a, (drawAt 0xFF0#16).I.toNat ≤ a → a < (drawAt 0xFF0#16).I.toNat + 16 → a ≤ 0xFFF := by
  refine ⟨by decide, fun a _ h => ?_⟩
  have e : (drawAt 0xFF0#16).I.toNat = 0xFF0 := by decide
  omega
theorem test_witness_NoOpWords :
    IsNoOpWord 0x0000#16 ∧ IsNoOpWord 0x8AB8#16 ∧ IsNoOpWord 0xE19F#16 ∧ IsNoOpWord 0xF1FF#16 ∧
    ¬ IsNoOpWord 0x05EE#16 ∧ ¬ IsNoOpWord 0x8ABE#16 := by
  refine ⟨?_, ?_, ?_, ?_, ?_, ?_⟩ <;> simp [IsNoOpWord]
theorem test_witness_NoOpStep : State.reset.mark = none ∧ State.reset.pc.toNat ≤ 0xFFE ∧ State.reset.fetchWord = 0#16 := by
  decide +kernel
theorem test_witness_OnlyKeyWaitAndJumps :
    ends (run 0xF10A State.reset) (fun t => t.pc == State.reset.pc) = true ∧
    ends (run 0x1200 State.reset) (fun t => t.pc == State.reset.pc) = true ∧
    ends (run 0x2200 State.reset) (fun t => t.pc == State.reset.pc) = true ∧
    ends (run 0xB200 State.reset) (fun t => t.pc == State.reset.pc) = true ∧
    ends (run 0x00EE (withReturn State.reset 0x200#16)) (fun t => t.pc == State.reset.pc) = true := by decide +kernel
theorem test_witness_APlacedWord : (16 : Nat) ≤ 16 ∧ 0xFFE < (State.reset.setPc 0xFFF#16).pc.toNat := by decide
theorem test_witness_Draw :
    (drawAt 0xFFB#16).I.toNat + (5#4).toNat ≤ 0x1000 ∧ (0#4).toNat = 0 ∧
    0 < (5#4).toNat ∧ 0x1000 < (drawAt 0xFFC#16).I.toNat + (5#4).toNat := by decide
theorem test_witness_Draw_collides :
    SpriteCovers State.reset 5 0 0 0 0 ∧ ¬ SpriteCovers (State.reset.setI 0x50#16) 5 0 0 0 0 := by
  refine ⟨⟨0, 0, by decide, by decide, by decide, by decide, by decide⟩, ?_⟩
  rintro ⟨r, c, hr, hc, hb, -, -⟩
  have e : ∀ r < 5, (State.reset.setI 0x50#16).readByte ((State.reset.setI 0x50#16).I.toNat + r) = 0#8 := by decide
  rw [e r hr] at hb
  simp at hb

/-- The reset state after its first drawing of glyph 0. -/
def drawnOnce : State :=
  match exec (.drw 1 2 5#4) State.reset with
  | .next t => t
  | .fault _ => State.reset
  | .refused _ => State.reset

theorem test_witness_DrawingTwice :
    exec (.drw 1 2 5#4) State.reset = .next drawnOnce ∧ drawnOnce.I = State.reset.I ∧
    drawnOnce.getV 1 = State.reset.getV 1 ∧ drawnOnce.getV 2 = State.reset.getV 2 ∧
    (∀ a, drawnOnce.readByte a = State.reset.readByte a) ∧ drawnOnce.pixel 0 0 = true :=
  ⟨rfl, rfl, by decide +kernel, by decide +kernel, fun _ => rfl, by decide +kernel⟩
theorem test_drawing_twice :
    ends (exec (.drw 1 2 5#4) drawnOnce) (fun t => t.fb == State.reset.fb && t.getV 0xF == 1) = true := by
  decide +kernel
theorem test_witness_Return :
    State.reset.SP.val = 0 ∧ (withReturn State.reset 0x206#16).SP.val = (0 : Fin 16).val + 1 ∧
    ({ State.reset with SP := 16 } : State).SP.val = (15 : Fin 16).val + 1 := by decide
theorem test_witness_Call :
    ({ State.reset with SP := 16 } : State).SP.val = 16 ∧ State.reset.SP.val = (0 : Fin 16).val ∧
    ({ State.reset with SP := 15 } : State).SP.val = (15 : Fin 16).val := by decide

/-- The reset state after a CALL. -/
def calledOnce : State :=
  match exec (.call 0x300#12) State.reset with
  | .next t => t
  | .fault _ => State.reset
  | .refused _ => State.reset

theorem test_witness_CallThenReturn :
    State.reset.SP.val < 16 ∧ exec (.call 0x300#12) State.reset = .next calledOnce ∧
    ends (exec (.ret 0) calledOnce) (fun t => t.pc == State.reset.pc && t.SP == State.reset.SP) = true :=
  ⟨by decide, rfl, by decide +kernel⟩
theorem test_witness_Flags : (1 : Reg) ≠ VF ∧ VF = 0xF := by decide
theorem test_witness_vfOrders :
    State.reset.params.vfOrder = .sampleFirst ∧ (flagFirst State.reset).params.vfOrder = .flagFirst := by decide
theorem test_witness_Decimal : (drawAt 0xFFD#16).I.toNat + 2 ≤ 0xFFF ∧ 0xFFF < (drawAt 0xFFE#16).I.toNat + 2 := by decide
theorem test_witness_Transfers :
    (drawAt 0xFF0#16).I.toNat + (15 : Reg).val ≤ 0xFFF ∧ 0xFFF < (drawAt 0xFF1#16).I.toNat + (15 : Reg).val ∧
    State.reset.params.ldstI = .unchanged ∧ (advancesI State.reset).params.ldstI = .advance := by decide

/-- Three registers stored at 0x300, under the setting that moves `I`. -/
def beforeStore : State := advancesI (((withV 0 1 1 2).setV 2 3).setI 0x300#16)
def afterStore : State :=
  match exec (.storeRegs 2) beforeStore with
  | .next t => t
  | .fault _ => State.reset
  | .refused _ => State.reset

theorem test_witness_StoredRegistersComeBack :
    exec (.storeRegs 2) beforeStore = .next afterStore ∧ (afterStore.setI 0x300#16).I = beforeStore.I ∧
    ∀ a, (afterStore.setI 0x300#16).readByte a = afterStore.readByte a :=
  ⟨rfl, rfl, fun _ => rfl⟩
theorem test_witness_KeySkips :
    ((withV 1 0xF 0 0).getV 1).toNat = (0xF : Key).val ∧ ((State.reset.setKey 0xF true).getKey 0xF = true) ∧
    0xF < ((withV 1 0x10 0 0).getV 1).toNat := by decide
theorem test_witness_KeyWait :
    ((State.reset.setKey 0xF true).getKey 0xF = true ∧
      ∀ j : Key, j < 0xF → (State.reset.setKey 0xF true).getKey j = false) ∧
    ∀ k : Key, State.reset.getKey k = false := by decide +kernel
theorem test_witness_Reset : State.reset.params = defaultParams := rfl
theorem test_witness_Load :
    (List.replicate 3584 0#8).length ≤ 3584 ∧ 3584 < (List.replicate 3585 0#8).length ∧ 0 < [0x12#8].length := by
  simp only [List.length_replicate, List.length_cons, List.length_nil]; decide
theorem test_witness_Trace :
    0xFFE < (State.reset.setPc 0xFFF#16).pc.toNat ∧
    (State.reset.setMark (some (.fetchOutOfRange 0xFFF#16))).mark ≠ none := by decide
theorem test_witness_Footprint : exec (.ldByte 1 5#8) State.reset = .next (State.reset.setV 1 5#8) := rfl
theorem test_witness_SoundTimer : ∀ x, Instr.ldDt 1 ≠ .setSt x := by simp
theorem test_witness_PoppedEntry :
    let s := withReturn State.reset 0x206#16
    let s' : State := { s with stack := s.stack.set 1 0x300#16 }
    s' = { s with stack := s'.stack } ∧ (∀ j : Fin 16, j.val < s.SP.val → s'.getStack j = s.getStack j) ∧ s' ≠ s := by
  decide +kernel
theorem test_witness_CanonicalMemory :
    Memory.wf defaultFont [(0x000, 0#8), (0xFFF, 5#8)] = true ∧ Memory.wf defaultFont [] = true ∧
    Memory.wf defaultFont [(0x1000, 5#8)] = false ∧ Memory.wf defaultFont [(0x300, 0#8)] = false ∧
    Memory.wf defaultFont [(0x301, 1#8), (0x300, 1#8)] = false := by decide +kernel
theorem test_witness_EveryStepKeepsTheInvariant :
    State.reset.Inv ∧ ∃ t, step State.reset = .next t ∧ (t == State.reset.setPc 0x202#16) = true :=
  ⟨⟨rfl, by decide, by decide⟩, ends_iff.1 test_reset_runs_sys_no_ops⟩
theorem test_witness_TimersRunOut :
    (State.reset.setMark (some (.fetchOutOfRange 0x1000#16))).mark ≠ none ∧ TicksForever (fun _ => .tick) ∧
    ∀ _ : Nat, HostOp.tick ≠ HostOp.reset :=
  ⟨by decide, fun n => ⟨n, le_rfl, rfl⟩, fun _ => by decide⟩
theorem test_invariant_is_not_always_true : ¬ (State.reset.setPc 0x10FF#16).Inv :=
  fun h => absurd h.pc_le (by decide)

end Sys2Proof.Tests
end

/-! ## State: footprints, what no instruction reads, and the invariant (spec/10_state.md)

Everything that an instruction can do to the state is proved once by cases on the instruction, in three forms:
it stays in its footprint (`exec_footprint`), it commutes with a change of what it does not read
(`exec_mapUnread`), and it keeps the invariant (`exec_keeps_inv`). -/

namespace Sys2Proof.Machine

/-! ### Statements about every next state that an outcome can be -/

/-- Every next state that the outcome answers satisfies `P`. -/
def Out.Ensures (P : State → Prop) : Out → Prop
  | .next t => P t
  | .fault _ => True
  | .refused _ => True

theorem Out.ensures_iff {P : State → Prop} {o : Out} : Out.Ensures P o ↔ ∀ t, o = .next t → P t := by
  cases o <;> simp [Out.Ensures]

/-! ### What the instructions with branches can answer -/

section Branches

variable {P : State → Prop} {s : State} {x : Reg}

theorem State.skipIf_ensures (hskip : P (s.setPc (s.pc + 2#16))) (hstay : P s) (c : Bool) : P (s.skipIf c) := by
  cases c
  · exact hstay
  · exact hskip

theorem execRet_of_pos (h : 0 < s.SP.val) : execRet x s = .next (s.pop.setPc (s.top h)) := dif_pos h

theorem execRet_of_empty (h : ¬ 0 < s.SP.val) : execRet x s = .next s := dif_neg h

theorem execCall_of_lt {nnn : Addr12} (h : s.SP.val < 16) :
    execCall nnn s = .next ((s.push s.pc h).setPc (addrOf nnn)) := dif_pos h

theorem execCall_of_full {nnn : Addr12} (h : ¬ s.SP.val < 16) : execCall nnn s = .next s := dif_neg h

theorem execRet_ensures (hpop : ∀ h : 0 < s.SP.val, P (s.pop.setPc (s.top h))) (hempty : P s) :
    Out.Ensures P (execRet x s) := by
  by_cases h : 0 < s.SP.val
  · rw [execRet_of_pos h]
    exact hpop h
  · rw [execRet_of_empty h]
    exact hempty

theorem execCall_ensures {nnn : Addr12} (hpush : ∀ h : s.SP.val < 16, P ((s.push s.pc h).setPc (addrOf nnn)))
    (hfull : P s) : Out.Ensures P (execCall nnn s) := by
  by_cases h : s.SP.val < 16
  · rw [execCall_of_lt h]
    exact hpush h
  · rw [execCall_of_full h]
    exact hfull

theorem execDrw_ensures {y : Reg} {n : Nibble} (h : ∀ fb b, P ((s.setFb fb).setV VF b)) :
    Out.Ensures P (execDrw x y n s) := by
  unfold execDrw
  split
  · trivial
  · exact h _ _

theorem execSkp_ensures (h : ∀ c, P (s.skipIf c)) : Out.Ensures P (execSkp x s) := by
  unfold execSkp
  split
  · exact h _
  · trivial

theorem execSknp_ensures (h : ∀ c, P (s.skipIf c)) : Out.Ensures P (execSknp x s) := by
  unfold execSknp
  split
  · exact h _
  · trivial

theorem execLdKey_ensures (hkey : ∀ b, P (s.setV x b)) (hwait : P (s.setPc (s.pc - 2#16))) :
    Out.Ensures P (execLdKey x s) := by
  unfold execLdKey
  split
  · exact hkey _
  · exact hwait

theorem execLdBcd_ensures
    (h : s.I.toNat + 3 ≤ Config.memSize → P (s.writeBytes s.I.toNat (decimalDigits (s.getV x)))) :
    Out.Ensures P (execLdBcd x s) := by
  unfold execLdBcd
  split
  · trivial
  · rename_i hrange
    exact h ((lowestOutOfRange_eq_none.1 hrange).resolve_left (by simp))

theorem execStoreRegs_ensures
    (h : s.I.toNat + (x.val + 1) ≤ Config.memSize →
      P ((s.writeBytes s.I.toNat (regsUpTo s x)).afterTransfer x)) :
    Out.Ensures P (execStoreRegs x s) := by
  unfold execStoreRegs
  split
  · trivial
  · rename_i hrange
    exact h ((lowestOutOfRange_eq_none.1 hrange).resolve_left (by simp))

theorem execLoadRegs_ensures
    (h : P ((s.loadRegsFrom 0 (s.readBytes s.I.toNat (x.val + 1))).afterTransfer x)) :
    Out.Ensures P (execLoadRegs x s) := by
  unfold execLoadRegs
  split
  · trivial
  · exact h

end Branches

/-! ### The algebra of frames -/

section Frames

variable {s t u : State} {p q : Component → Prop}

theorem SameAt.trans {c : Component} (h₁ : SameAt s t c) (h₂ : SameAt t u c) : SameAt s u c := by
  cases c <;> exact Eq.trans h₂ h₁

theorem Frame.refl (s : State) (p : Component → Prop) : Frame p s s := by
  intro c _
  cases c <;> rfl

theorem Frame.mono (h : Frame p s t) (hpq : ∀ c, p c → q c) : Frame q s t :=
  fun c hc => h c fun hp => hc (hpq c hp)

theorem Frame.trans (h₁ : Frame p s t) (h₂ : Frame p t u) : Frame p s u :=
  fun c hc => (h₁ c hc).trans (h₂ c hc)

/-- Two changes in a row stay in the two footprints together. -/
theorem Frame.comp (h₁ : Frame p s t) (h₂ : Frame q t u) : Frame (fun c => p c ∨ q c) s u :=
  (h₁.mono fun _ => .inl).trans (h₂.mono fun _ => .inr)

end Frames

/-! ### The frame of each operation of the state -/

section OperationFrames

variable (s : State)

theorem Frame.setV (r : Reg) (b : Byte) : Frame (· = .V r) s (s.setV r b) :=
  Frame.of_V fun _ hq => State.getV_setV_ne s b fun e => hq (congrArg Component.V e)

theorem Frame.setI (a : Word) : Frame (· = .I) s (s.setI a) := by
  intro c hc
  cases c with
  | I => exact absurd rfl hc
  | _ => rfl

theorem Frame.setPc (a : Word) : Frame (· = .pc) s (s.setPc a) := by
  intro c hc
  cases c with
  | pc => exact absurd rfl hc
  | _ => rfl

theorem Frame.setDT (b : Byte) : Frame (· = .DT) s (s.setDT b) := by
  intro c hc
  cases c with
  | DT => exact absurd rfl hc
  | _ => rfl

theorem Frame.setST (b : Byte) : Frame (· = .ST) s (s.setST b) := by
  intro c hc
  cases c with
  | ST => exact absurd rfl hc
  | _ => rfl

theorem Frame.setFb (fb : Framebuffer) : Frame anyPixel s (s.setFb fb) := by
  intro c hc
  cases c with
  | pixel x y => exact absurd ⟨x, y, rfl⟩ hc
  | _ => rfl

theorem Frame.tookRand : Frame (· = .draws) s s.tookRand := by
  intro c hc
  cases c with
  | draws => exact absurd rfl hc
  | _ => rfl

theorem Frame.pop : Frame (· = .SP) s s.pop := by
  intro c hc
  cases c with
  | SP => exact absurd rfl hc
  | _ => rfl

theorem Frame.push (v : Word) (h : s.SP.val < 16) :
    Frame (fun c => c = .SP ∨ ∃ j : Fin 16, j.val = s.SP.val ∧ c = .stack j) s (s.push v h) := by
  intro c hc
  cases c with
  | SP => exact absurd (.inl rfl) hc
  | stack j =>
    have hj : j.val ≠ s.SP.val := fun e => hc (.inr ⟨j, e, rfl⟩)
    exact (State.getStack_push s v h j).trans (if_neg hj)
  | _ => rfl

theorem Frame.skipIf (c : Bool) : Frame (· = .pc) s (s.skipIf c) :=
  State.skipIf_ensures (Frame.setPc s _) (Frame.refl s _) c

theorem Frame.writeFlagged (x : Reg) (flag result : State → Byte) :
    Frame (fun c => c = .V x ∨ c = .V VF) s (s.writeFlagged x flag result) :=
  ((Frame.setV s VF _).comp (Frame.setV _ x _)).mono fun _ => Or.symm

theorem Frame.writeBytes (a : Nat) (bs : List Byte) : Frame (bytesFrom a bs.length) s (s.writeBytes a bs) := by
  rw [State.writeBytes_eq]
  refine Frame.of_memory fun q hq => ?_
  rw [← State.writeBytes_eq, State.readByte_writeBytes]
  exact dif_neg fun h => hq ⟨q - a, h.2, congrArg Component.byte (by omega)⟩

theorem Frame.loadRegsFrom {x : Reg} {bs : List Byte} (hlen : bs.length = x.val + 1) :
    Frame (upToV x) s (s.loadRegsFrom 0 bs) := by
  rw [State.loadRegsFrom_eq]
  refine Frame.of_V fun r hr => ?_
  rw [← State.loadRegsFrom_eq, State.getV_loadRegsFrom _ _ _ _ (by omega)]
  exact dif_neg fun h => hr ⟨r, Fin.le_def.2 (by omega), rfl⟩

/-- The parameters that decide whether `I` moves may be read in any state that has the same ones. -/
theorem Frame.afterTransfer {t : State} (x : Reg) (h : t.params = s.params) :
    Frame (ldstI s) t (t.afterTransfer x) := by
  unfold State.afterTransfer
  split
  · exact Frame.refl t _
  · rename_i hadvance
    exact (Frame.setI t _).mono fun _ hc => ⟨hc, h ▸ hadvance⟩

end OperationFrames

/-! ### The footprint of every instruction -/

theorem exec_footprint (i : Instr) (s : State) : Out.Ensures (Frame (footprint i s) s) (exec i s) := by
  cases i with
  | cls => exact Frame.setFb s _
  | ret x =>
    exact execRet_ensures (x := x)
      (fun h => ((Frame.pop s).comp (Frame.setPc _ _)).mono fun _ hc => ⟨hc.symm, h⟩) (Frame.refl s _)
  | jp | jpV0 => exact Frame.setPc s _
  | call =>
    exact execCall_ensures
      (fun h => ((Frame.push s _ h).comp (Frame.setPc _ _)).mono fun _ hc => ⟨hc.symm, h⟩) (Frame.refl s _)
  | seByte | sneByte | seReg | sneReg => exact Frame.skipIf s _
  | ldByte | addByte | ldReg | orReg | andReg | xorReg | ldDt => exact Frame.setV s _ _
  | addReg | subReg | shrReg | subnReg | shlReg => exact Frame.writeFlagged s _ _ _
  | ldI | addI | ldFont => exact Frame.setI s _
  | rnd => exact ((Frame.tookRand s).comp (Frame.setV _ _ _)).mono fun _ => Or.symm
  | drw =>
    exact execDrw_ensures fun _ _ => ((Frame.setFb s _).comp (Frame.setV _ _ _)).mono fun _ => Or.symm
  | skp => exact execSkp_ensures (Frame.skipIf s)
  | sknp => exact execSknp_ensures (Frame.skipIf s)
  | ldKey =>
    exact execLdKey_ensures (fun _ => (Frame.setV s _ _).mono fun _ => .inl)
      ((Frame.setPc s _).mono fun _ => .inr)
  | setDt => exact Frame.setDT s _
  | setSt => exact Frame.setST s _
  | ldBcd x =>
    exact execLdBcd_ensures fun _ => Frame.writeBytes s s.I.toNat (decimalDigits (s.getV x))
  | storeRegs x =>
    have hwrite := Frame.writeBytes s s.I.toNat (regsUpTo s x)
    rw [length_regsUpTo] at hwrite
    have hparams := hwrite .params (by simp [bytesFrom])
    exact execStoreRegs_ensures fun _ => hwrite.comp (Frame.afterTransfer s x hparams)
  | loadRegs x =>
    have hload := Frame.loadRegsFrom s (x := x) (State.length_readBytes s s.I.toNat (x.val + 1))
    have hparams := hload .params (by simp [upToV])
    exact execLoadRegs_ensures (hload.comp (Frame.afterTransfer s x hparams))
  | sys | undef88 | undef89 | undef8A | undef8B | undef8C | undef8D | undef8F | undefE | undefF =>
    exact Frame.refl s _

/-- Settles O49: no instruction changes anything outside its footprint. -/
theorem everyInstructionStaysInItsFootprint : Obligations.EveryInstructionStaysInItsFootprint :=
  fun i s => Out.ensures_iff.1 (exec_footprint i s)

theorem exec_params {i : Instr} {s t : State} (h : exec i s = .next t) : t.params = s.params := by
  refine everyInstructionStaysInItsFootprint i s t h .params ?_
  cases i <;> simp [footprint, bytesFrom, anyPixel, upToV, ldstI]

/-! ### What keeps the invariant -/

section Invariant

variable {s t : State}

/-- The invariant speaks of memory, the font, `pc` and the stack alone. -/
theorem State.Inv.of_same (h : s.Inv) (hmemory : t.memory = s.memory) (hparams : t.params = s.params)
    (hpc : t.pc = s.pc) (hstack : t.stack = s.stack) : t.Inv where
  memory_wf := by rw [hmemory, hparams]; exact h.memory_wf
  pc_le := by rw [hpc]; exact h.pc_le
  stack_le j := by unfold State.getStack; rw [hstack]; exact h.stack_le j

theorem State.Inv.setV (h : s.Inv) (r : Reg) (b : Byte) : (s.setV r b).Inv := h.of_same rfl rfl rfl rfl

theorem State.Inv.setI (h : s.Inv) (a : Word) : (s.setI a).Inv := h.of_same rfl rfl rfl rfl

theorem State.Inv.setMark (h : s.Inv) (m : Option Fault) : (s.setMark m).Inv := h.of_same rfl rfl rfl rfl

theorem State.Inv.setPc (h : s.Inv) {a : Word} (ha : a.toNat ≤ 0x10FE) : (s.setPc a).Inv :=
  ⟨h.memory_wf, ha, h.stack_le⟩

theorem State.Inv.push (h : s.Inv) {v : Word} (hv : v.toNat ≤ 0x1000) (hSP : s.SP.val < 16) :
    (s.push v hSP).Inv where
  memory_wf := h.memory_wf
  pc_le := h.pc_le
  stack_le j := by
    rw [State.getStack_push]
    split
    · exact hv
    · exact h.stack_le j

theorem State.Inv.top_le (h : s.Inv) (hSP : 0 < s.SP.val) : (s.top hSP).toNat ≤ 0x1000 :=
  h.stack_le ⟨s.SP.val - 1, by omega⟩

theorem State.Inv.writeBytes (h : s.Inv) {a : Nat} {bs : List Byte} (ha : a + bs.length ≤ Config.memSize) :
    (s.writeBytes a bs).Inv := by
  have hwf := State.wf_writeBytes ha h.memory_wf
  rw [State.writeBytes_eq]
  exact ⟨hwf, h.pc_le, h.stack_le⟩

theorem State.Inv.loadRegsFrom (h : s.Inv) (j : Nat) (bs : List Byte) : (s.loadRegsFrom j bs).Inv := by
  rw [State.loadRegsFrom_eq]
  exact h.of_same rfl rfl rfl rfl

theorem State.Inv.afterTransfer (h : s.Inv) (x : Reg) : (s.afterTransfer x).Inv := by
  rw [State.afterTransfer_eq]
  exact h.setI _

theorem toNat_addrOf_lt (nnn : Addr12) : (addrOf nnn).toNat < 0x1000 := by
  rw [addrOf, BitVec.toNat_setWidth_of_le (by decide)]
  exact nnn.isLt

/-- The target of JP V0: the sum does not wrap (R87). -/
theorem toNat_addrOf_add_le (nnn : Addr12) (b : Byte) : (addrOf nnn + b.setWidth 16).toNat ≤ 0x10FE := by
  have haddr := toNat_addrOf_lt nnn
  have hb := b.isLt
  rw [BitVec.toNat_add, BitVec.toNat_setWidth_of_le (by decide)]
  omega

/-- The advance of a step that fetches keeps the invariant and leaves `pc` above 0 (R66, R67). -/
theorem State.Inv.advance (h : s.Inv) (hfetch : s.canFetch = true) :
    s.advance.Inv ∧ 2 ≤ s.advance.pc.toNat ∧ s.advance.pc.toNat ≤ 0x1000 := by
  have hpc := State.toNat_pc_advance hfetch
  rw [State.canFetch_iff] at hfetch
  exact ⟨⟨h.memory_wf, by omega, h.stack_le⟩, by omega, by omega⟩

end Invariant

/-- After the advance `pc` is between 2 and 0x1000, so a skip, the push of `pc` by CALL and the step back by FX0A all
stay within the bounds. -/
theorem exec_keeps_inv (i : Instr) {s : State} (h : s.Inv) (hlo : 2 ≤ s.pc.toNat) (hhi : s.pc.toNat ≤ 0x1000) :
    Out.Ensures State.Inv (exec i s) := by
  have hskip (c : Bool) : (s.skipIf c).Inv :=
    State.skipIf_ensures (h.setPc (by simp only [BitVec.toNat_add, BitVec.toNat_ofNat]; omega)) h c
  cases i with
  | ret x =>
    refine execRet_ensures (x := x) (fun hSP => ?_) h
    exact (h.of_same (t := s.pop) rfl rfl rfl rfl).setPc ((h.top_le hSP).trans (by decide))
  | jp nnn => exact h.setPc ((toNat_addrOf_lt nnn).le.trans (by decide))
  | jpV0 nnn => exact h.setPc (toNat_addrOf_add_le nnn _)
  | call nnn =>
    exact execCall_ensures
      (fun hSP => (h.push hhi hSP).setPc ((toNat_addrOf_lt nnn).le.trans (by decide))) h
  | seByte | sneByte | seReg | sneReg => exact hskip _
  | skp => exact execSkp_ensures hskip
  | sknp => exact execSknp_ensures hskip
  | ldKey =>
    exact execLdKey_ensures (h.setV _) (h.setPc (by rw [BitVec.toNat_sub_of_le hlo]; omega))
  | ldBcd => exact execLdBcd_ensures fun hrange => h.writeBytes hrange
  | storeRegs x =>
    exact execStoreRegs_ensures fun hrange => (h.writeBytes (by rwa [length_regsUpTo])).afterTransfer x
  | loadRegs x => exact execLoadRegs_ensures ((h.loadRegsFrom _ _).afterTransfer x)
  | drw => exact execDrw_ensures fun _ _ => h.of_same rfl rfl rfl rfl
  | cls | ldByte | addByte | ldReg | orReg | andReg | xorReg | addReg | subReg | shrReg | subnReg | shlReg | ldI
  | rnd | ldDt | setDt | setSt | addI | ldFont => exact h.of_same rfl rfl rfl rfl
  | sys | undef88 | undef89 | undef8A | undef8B | undef8C | undef8D | undef8F | undefE | undefF => exact h

/-- Settles O54: a step advances `pc` from a fetchable address, then runs one instruction. -/
theorem everyStepKeepsTheInvariant : Obligations.EveryStepKeepsTheInvariant := by
  intro s t hinv hstep
  obtain ⟨-, hfetch, hexec⟩ := step_eq_next.1 hstep
  obtain ⟨hadv, hlo, hhi⟩ := hinv.advance hfetch
  exact Out.ensures_iff.1 (exec_keeps_inv _ hadv hlo hhi) t hexec

/-! ### Reset and the runs from it -/

/-- Settles O53: the canonical form of no cells, 0x200 in `pc` and a stack of zeros. -/
theorem theInvariantHoldsAtReset : Obligations.TheInvariantHoldsAtReset := fun p =>
  ⟨Memory.wf_resetWith p, by simp [State.resetWith], fun j => by simp⟩

/-- Settles O44: reset is the reset state of the engine's own parameters, but for the draws. -/
theorem resetSetsEveryComponent : Obligations.ResetSetsEveryComponent := fun s =>
  ⟨State.getV_resetWith s.params, rfl, rfl, rfl, State.getStack_resetWith s.params, rfl, rfl,
    State.pixel_resetWith s.params, State.getKey_resetWith s.params, rfl, fun _ hfont => dif_pos hfont,
    fun _ habove _ => dif_neg (by omega), rfl, rfl⟩

/-- A step that stops stops at a `pc` where nothing is fetched, or in the instruction it ran. -/
theorem step_eq_fault_cases {s : State} {f : Fault} (hmark : s.mark = none) (h : step s = .fault f) :
    f = .fetchOutOfRange s.pc ∨ s.canFetch = true := by
  cases hfetch : s.canFetch with
  | true => exact .inr rfl
  | false => exact .inl (Host.Outcome.fault.inj ((step_eq_stuck hmark hfetch).symm.trans h)).symm

theorem State.Inv.markFault {s : State} {f : Fault} (h : s.Inv)
    (hf : f = .fetchOutOfRange s.pc ∨ s.canFetch = true) : (markFault s f).Inv := by
  cases f with
  | fetchOutOfRange => exact h.setMark _
  | memOutOfRange | keyIndexOutOfRange =>
    obtain ⟨hadv, -, -⟩ := h.advance (hf.resolve_left (by simp))
    exact hadv.setMark _

theorem State.Inv.hostStep {s : State} (h : s.Inv) : (hostStep s).Inv := by
  obtain ⟨_, _, he⟩ | ⟨_, t, hs, he⟩ | ⟨hm, f, hs, he⟩ | ⟨_, _, _, he⟩ := hostStep_cases s <;> rw [he]
  · exact h
  · exact everyStepKeepsTheInvariant s t h hs
  · exact h.markFault (step_eq_fault_cases hm hs)
  · exact h

theorem loadCheck_eq_none {rom : List Byte} :
    loadCheck rom = none ↔ 0 < rom.length ∧ rom.length ≤ Config.maxRom := by
  unfold loadCheck
  split <;> simp <;> omega

theorem State.Inv.load {s : State} (h : s.Inv) (rom : List Byte) : (load rom s).Inv := by
  unfold Sys2Proof.Machine.load
  split
  · exact h
  · rename_i hcheck
    obtain ⟨-, hlen⟩ := loadCheck_eq_none.1 hcheck
    exact h.writeBytes (Nat.add_le_add_left hlen Config.progBase)

/-- The step lemma of every run (R135, R136). -/
theorem HostOp.apply_keeps_inv (op : HostOp) {s : State} (h : s.Inv) : (op.apply s).Inv := by
  cases op with
  | step => exact h.hostStep
  | reset => exact (theInvariantHoldsAtReset s.params).of_same rfl rfl rfl rfl
  | load rom => exact h.load rom
  | tick | setKey | readFb | readSound => exact h.of_same rfl rfl rfl rfl

theorem hostStep_params (s : State) : (hostStep s).params = s.params := by
  obtain ⟨_, _, he⟩ | ⟨_, t, hs, he⟩ | ⟨_, f, _, he⟩ | ⟨_, _, _, he⟩ := hostStep_cases s <;> rw [he]
  · obtain ⟨-, -, hexec⟩ := step_eq_next.1 hs
    exact (exec_params hexec).trans (State.advance_params s)
  · cases f <;> rfl

theorem load_params (rom : List Byte) (s : State) : (load rom s).params = s.params := by
  unfold load
  split
  · rfl
  · rw [State.writeBytes_eq]

theorem HostOp.apply_params (op : HostOp) (s : State) : (op.apply s).params = s.params := by
  cases op with
  | step => exact hostStep_params s
  | load rom => exact load_params rom s
  | tick | reset | setKey | readFb | readSound => rfl

/-- What every host operation keeps holds after every schedule. -/
theorem runSchedule_induction {P : State → Prop} (hop : ∀ (op : HostOp) (s : State), P s → P (op.apply s))
    (ops : List HostOp) {s : State} (h : P s) : P (runSchedule s ops) := by
  induction ops generalizing s with
  | nil => exact h
  | cons op ops ih => exact ih (hop op s h)

/-- Settles O56, by induction on the schedule. -/
theorem everyReachableStateIsBounded : Obligations.EveryReachableStateIsBounded := fun p ops =>
  runSchedule_induction (P := fun s => s.Inv ∧ s.params = p)
    (fun op s ⟨hinv, hparams⟩ => ⟨op.apply_keeps_inv hinv, (op.apply_params s).trans hparams⟩) ops
    ⟨theInvariantHoldsAtReset p, rfl⟩

/-! ### What no instruction reads: the sound timer, and the stack but for CALL and RET -/

/-- The state with its stack and its sound timer changed by `f` and `g`. -/
def State.mapUnread (f : Vector Word 16 → Vector Word 16) (g : Byte → Byte) (s : State) : State :=
  { s with stack := f s.stack, ST := g s.ST }

section Unread

variable (f : Vector Word 16 → Vector Word 16) (g : Byte → Byte) (s : State)

@[simp] theorem State.getV_mapUnread (r : Reg) : (s.mapUnread f g).getV r = s.getV r := rfl
@[simp] theorem State.getKey_mapUnread (k : Key) : (s.mapUnread f g).getKey k = s.getKey k := rfl
@[simp] theorem State.mapUnread_I : (s.mapUnread f g).I = s.I := rfl
@[simp] theorem State.readBytes_mapUnread (a n : Nat) : (s.mapUnread f g).readBytes a n = s.readBytes a n := rfl
@[simp] theorem regsUpTo_mapUnread (x : Reg) : regsUpTo (s.mapUnread f g) x = regsUpTo s x := rfl
@[simp] theorem lowestPressed_mapUnread : lowestPressed (s.mapUnread f g) = lowestPressed s := rfl

@[simp] theorem State.skipIf_mapUnread (c : Bool) : (s.mapUnread f g).skipIf c = (s.skipIf c).mapUnread f g := by
  cases c <;> rfl

@[simp] theorem State.writeBytes_mapUnread (a : Nat) (bs : List Byte) :
    (s.mapUnread f g).writeBytes a bs = (s.writeBytes a bs).mapUnread f g := by
  induction bs generalizing s a with
  | nil => rfl
  | cons b bs ih => exact ih (s.writeByte a b) (a + 1)

@[simp] theorem State.loadRegsFrom_mapUnread (j : Nat) (bs : List Byte) :
    (s.mapUnread f g).loadRegsFrom j bs = (s.loadRegsFrom j bs).mapUnread f g := by
  induction bs generalizing s j with
  | nil => rfl
  | cons b bs ih => exact ih (s.setV (Fin.ofNat 16 j) b) (j + 1)

@[simp] theorem State.afterTransfer_mapUnread (x : Reg) :
    (s.mapUnread f g).afterTransfer x = (s.afterTransfer x).mapUnread f g := by
  simp only [State.afterTransfer_eq]
  rfl

end Unread

/-- With another stack and another value in the sound timer, an instruction does the same to everything else: RET and
CALL if the stack is the same, FX18 if the sound timer is. -/
theorem exec_mapUnread (f : Vector Word 16 → Vector Word 16) (g : Byte → Byte) (i : Instr) (s : State)
    (hret : ∀ x, i = .ret x → f = id) (hcall : ∀ nnn, i = .call nnn → f = id) (hst : ∀ x, i = .setSt x → g = id) :
    exec i (s.mapUnread f g) = Out.mapNext (State.mapUnread f g) (exec i s) := by
  cases i with
  | ret x =>
    obtain rfl := hret x rfl
    change execRet x _ = Out.mapNext _ (execRet x s)
    by_cases hSP : 0 < s.SP.val
    · rw [execRet_of_pos hSP]
      exact execRet_of_pos (s := s.mapUnread id g) hSP
    · rw [execRet_of_empty hSP]
      exact execRet_of_empty (s := s.mapUnread id g) hSP
  | call nnn =>
    obtain rfl := hcall nnn rfl
    change execCall nnn _ = Out.mapNext _ (execCall nnn s)
    by_cases hSP : s.SP.val < 16
    · rw [execCall_of_lt hSP]
      exact execCall_of_lt (s := s.mapUnread id g) hSP
    · rw [execCall_of_full hSP]
      exact execCall_of_full (s := s.mapUnread id g) hSP
  | setSt x =>
    obtain rfl := hst x rfl
    rfl
  | seByte | sneByte | seReg | sneReg => exact congrArg _ (State.skipIf_mapUnread f g s _)
  | skp x =>
    simp only [exec, execSkp, State.getV_mapUnread]
    cases keyOf (s.getV x)
    · rfl
    · simp [Out.mapNext]
  | sknp x =>
    simp only [exec, execSknp, State.getV_mapUnread]
    cases keyOf (s.getV x)
    · rfl
    · simp [Out.mapNext]
  | ldKey x =>
    simp only [exec, execLdKey, lowestPressed_mapUnread]
    cases lowestPressed s <;> rfl
  | drw x y n =>
    simp only [exec, execDrw, State.mapUnread_I]
    cases lowestOutOfRange s.I.toNat n.toNat <;> rfl
  | ldBcd x =>
    simp only [exec, execLdBcd, State.mapUnread_I]
    cases lowestOutOfRange s.I.toNat 3
    · simp [Out.mapNext]
    · rfl
  | storeRegs x =>
    simp only [exec, execStoreRegs, State.mapUnread_I]
    cases lowestOutOfRange s.I.toNat (x.val + 1)
    · simp [Out.mapNext]
    · rfl
  | loadRegs x =>
    simp only [exec, execLoadRegs, State.mapUnread_I]
    cases lowestOutOfRange s.I.toNat (x.val + 1)
    · simp [Out.mapNext]
    · rfl
  | cls | sys | jp | ldByte | addByte | ldReg | orReg | andReg | xorReg | addReg | subReg | shrReg | subnReg | shlReg
  | ldI | jpV0 | rnd | ldDt | setDt | addI | ldFont | undef88 | undef89 | undef8A | undef8B | undef8C | undef8D
  | undef8F | undefE | undefF => rfl

/-- Settles O50: `exec_mapUnread` with the stack unchanged, and FX18 overwrites the old value. -/
theorem noInstructionReadsTheSoundTimer : Obligations.NoInstructionReadsTheSoundTimer := by
  intro i s b
  refine ⟨fun hst => ?_, ?_⟩
  · exact exec_mapUnread id (fun _ => b) i s (fun _ _ => rfl) (fun _ _ => rfl) fun x hx => absurd hx (hst x)
  · rintro x rfl
    rfl

/-- `s'` is `s` but for stack entries at an index of SP or above. -/
def AgreeBelowSP (s s' : State) : Prop :=
  s' = { s with stack := s'.stack } ∧ ∀ j : Fin 16, j.val < s.SP.val → s'.getStack j = s.getStack j

/-- RET jumps to the entry below SP, in which the two states agree. -/
theorem AgreeBelowSP.execRet {s s' : State} (h : AgreeBelowSP s s') (x : Reg) :
    ∃ t t', execRet x s = .next t ∧ execRet x s' = .next t' ∧ AgreeBelowSP t t' := by
  obtain ⟨⟨st, rfl⟩, hbelow⟩ : (∃ st, s' = { s with stack := st }) ∧ _ := ⟨⟨_, h.1⟩, h.2⟩
  by_cases hSP : 0 < s.SP.val
  · have htop : ({ s with stack := st } : State).top hSP = s.top hSP :=
      hbelow ⟨s.SP.val - 1, by omega⟩ (Nat.sub_lt hSP Nat.one_pos)
    refine ⟨_, _, execRet_of_pos hSP, execRet_of_pos (s := { s with stack := st }) hSP, ?_,
      fun j hj => hbelow j (hj.trans_le (Nat.sub_le _ _))⟩
    rw [htop]
    rfl
  · exact ⟨_, _, execRet_of_empty hSP, execRet_of_empty (s := { s with stack := st }) hSP, h⟩

/-- CALL pushes the same `pc` in both states, and the entries under it agree. -/
theorem AgreeBelowSP.execCall {s s' : State} (h : AgreeBelowSP s s') (nnn : Addr12) :
    ∃ t t', execCall nnn s = .next t ∧ execCall nnn s' = .next t' ∧ AgreeBelowSP t t' := by
  obtain ⟨⟨st, rfl⟩, hbelow⟩ : (∃ st, s' = { s with stack := st }) ∧ _ := ⟨⟨_, h.1⟩, h.2⟩
  by_cases hSP : s.SP.val < 16
  · refine ⟨_, _, execCall_of_lt hSP, execCall_of_lt (s := { s with stack := st }) hSP, rfl, fun j hj => ?_⟩
    simp only [State.setPc_getStack, State.getStack_push]
    split
    · rfl
    · rename_i hne
      exact hbelow j (Nat.lt_of_le_of_ne (Nat.le_of_lt_succ hj) hne)
  · exact ⟨_, _, execCall_of_full hSP, execCall_of_full (s := { s with stack := st }) hSP, h⟩

theorem exec_keeps_stack {i : Instr} {s t : State} (hret : ∀ x, i ≠ .ret x) (hcall : ∀ nnn, i ≠ .call nnn)
    (h : exec i s = .next t) : t.SP = s.SP ∧ ∀ j, t.getStack j = s.getStack j := by
  have hframe := everyInstructionStaysInItsFootprint i s t h
  refine ⟨hframe .SP ?_, fun j => hframe (.stack j) ?_⟩ <;>
  · cases i with
    | ret x => exact absurd rfl (hret x)
    | call nnn => exact absurd rfl (hcall nnn)
    | _ => simp [footprint, bytesFrom, anyPixel, upToV, ldstI]

/-- Settles O51: RET and CALL reach only entries below SP, and every other instruction commutes with a change of the
stack. -/
theorem noInstructionReadsAPoppedEntry : Obligations.NoInstructionReadsAPoppedEntry := by
  intro i s s' hs hbelow
  have hagree : AgreeBelowSP s s' := ⟨hs, hbelow⟩
  by_cases hret : ∃ x, i = .ret x
  · obtain ⟨x, rfl⟩ := hret
    obtain ⟨t, t', ht, ht', h⟩ := hagree.execRet x
    rw [show exec (.ret x) s = .next t from ht]
    exact ⟨t', ht', h⟩
  by_cases hcall : ∃ nnn, i = .call nnn
  · obtain ⟨nnn, rfl⟩ := hcall
    obtain ⟨t, t', ht, ht', h⟩ := hagree.execCall nnn
    rw [show exec (.call nnn) s = .next t from ht]
    exact ⟨t', ht', h⟩
  rw [not_exists] at hret hcall
  have hcommutes : exec i s' = Out.mapNext (State.mapUnread (fun _ => s'.stack) id) (exec i s) :=
    (congrArg (exec i) hs).trans (exec_mapUnread (fun _ => _) _ i s (fun x hx => absurd hx (hret x))
      (fun nnn hnnn => absurd hnnn (hcall nnn)) fun _ _ => rfl)
  rw [hcommutes]
  cases hexec : exec i s with
  | next t =>
    obtain ⟨hSP, hstack⟩ := exec_keeps_stack hret hcall hexec
    refine ⟨_, rfl, rfl, fun j hj => ?_⟩
    rw [hSP] at hj
    exact (hbelow j hj).trans (hstack j).symm
  | fault | refused => rfl

end Sys2Proof.Machine

/-! ## Memory: the range check of a block and the canonical form (spec/20_memory.md) -/

namespace Sys2Proof.Machine

open Sys2Proof.Spec

/-! ### The instructions that access memory at `I` (R41, R46) -/

section Blocks

variable {i : Instr} {s : State} {len : Nat}

/-- Each of the four instructions hands the block of its own length to the range check, before anything else. -/
theorem exec_eq_raiseUndefined_of_lowestOutOfRange {a : Nat} (hlen : bytesAtI i = some len)
    (hout : lowestOutOfRange s.I.toNat len = some a) : exec i s = raiseUndefined (.memOutOfRange a) i s := by
  cases i with
  | drw | ldBcd | storeRegs | loadRegs =>
    obtain rfl := Option.some.inj hlen
    simp only [exec, execDrw, execLdBcd, execStoreRegs, execLoadRegs, hout]
  | _ => cases hlen

theorem exec_completes_of_block_in_range (hlen : bytesAtI i = some len)
    (hin : lowestOutOfRange s.I.toNat len = none) : ∃ t, exec i s = .next t := by
  cases i with
  | drw | ldBcd | storeRegs | loadRegs =>
    obtain rfl := Option.some.inj hlen
    simp only [exec, execDrw, execLdBcd, execStoreRegs, execLoadRegs, hin, Host.Outcome.next.injEq, exists_eq']
  | _ => cases hlen

end Blocks

/-- Settles O13: the range check names the lowest address outside, or none. -/
theorem memoryBlocksAreCheckedFirst : Obligations.MemoryBlocksAreCheckedFirst := by
  intro i s len hlen
  refine ⟨fun a hbase hend hout hlowest => ?_, fun hin => ?_⟩
  · exact exec_eq_raiseUndefined_of_lowestOutOfRange hlen (lowestOutOfRange_eq_some.2
      ⟨⟨hbase, hend, hout⟩, fun b hb hba => Nat.lt_succ_of_le (hlowest b hb hba)⟩)
  · refine exec_completes_of_block_in_range hlen (Option.eq_none_iff_forall_ne_some.2 fun a ha => ?_)
    obtain ⟨⟨hbase, hend, hout⟩, -⟩ := lowestOutOfRange_eq_some.1 ha
    exact absurd (hin a hbase hend) (Nat.not_le.2 hout)

/-! ### Memory in canonical form is what it reads as -/

section CanonicalForm

variable {font : Font} {m : Memory}

/-- The addresses rise strictly along the list. -/
theorem Memory.pairwise_of_wf (h : m.wf font = true) : m.Pairwise (InvImage (· < ·) Prod.fst) := by
  induction m with
  | nil => exact .nil
  | cons c m ih =>
    obtain ⟨-, -, hrising, hm⟩ := Memory.wf_cons.1 h
    exact .cons hrising (ih hm)

/-- The listed cells are the addresses that do not read as after reset, each with what it reads as. -/
theorem Memory.mem_iff_read_of_wf (h : m.wf font = true) (a : Nat) (v : Byte) :
    (a, v) ∈ m ↔ m.read font a = v ∧ v ≠ resetByte font a := by
  induction m with
  | nil =>
    simp only [List.not_mem_nil, Memory.read_nil, false_iff, not_and, not_not]
    exact Eq.symm
  | cons c m ih =>
    obtain ⟨b, w⟩ := c
    obtain ⟨-, hw, hrising, hm⟩ := Memory.wf_cons.1 h
    rw [List.mem_cons, Prod.mk.injEq, Memory.read]
    by_cases hab : a = b
    · subst hab
      have hnot : (a, v) ∉ m := fun hmem => Nat.lt_irrefl a (hrising _ hmem)
      simp only [hnot, true_and, or_false, if_true]
      exact ⟨fun hv => ⟨hv.symm, hv ▸ hw⟩, fun hv => hv.1.symm⟩
    · simp only [hab, false_and, false_or, if_false, ih hm]

end CanonicalForm

/-- Settles O52: the two lists have the same cells in the same order. -/
theorem canonicalMemoryIsUnique : Obligations.CanonicalMemoryIsUnique := by
  intro font m m' h h' hread
  refine (Memory.pairwise_of_wf h).eq_of_mem_iff (Memory.pairwise_of_wf h') fun ⟨a, v⟩ => ?_
  rw [Memory.mem_iff_read_of_wf h, Memory.mem_iff_read_of_wf h', hread]

end Sys2Proof.Machine

/-! ## Encoding: words and instructions determine each other (spec/30_encoding.md)

An instruction keeps every field of its word, so decoding inverts encoding (O1) and loses no bit (O2); a row of the
opcode table tests the class of a word and its secondary discriminant, so going down the table is the decoder's dispatch
(O3). -/

namespace Sys2Proof

open Sys2Proof.Spec

/-! ### The instructions of the fallback rows (R59) -/

theorem wellFormed_sys_iff {nnn : Addr12} :
    (Instr.sys nnn).WellFormed ↔ nnn.setWidth 8 ≠ 0xE0#8 ∧ nnn.setWidth 8 ≠ 0xEE#8 := by
  simp [Instr.WellFormed, Instr.wellFormed, Instr.sysLowByteFree]

theorem wellFormed_undefE_iff {x : Reg} {kk : Byte} : (Instr.undefE x kk).WellFormed ↔ kk ∉ Instr.definedE := by
  simp [Instr.WellFormed, Instr.wellFormed]

theorem wellFormed_undefF_iff {x : Reg} {kk : Byte} : (Instr.undefF x kk).WellFormed ↔ kk ∉ Instr.definedF := by
  simp [Instr.WellFormed, Instr.wellFormed]

section Fallback

variable {w : Word}

theorem decodeClass0_eq_sys (h : kkOf w ≠ 0xE0#8 ∧ kkOf w ≠ 0xEE#8) : decodeClass0 w = .sys (nnnOf w) := by
  unfold decodeClass0
  split
  next hcls => exact absurd hcls h.1
  next hret => exact absurd hret h.2
  next => rfl

theorem decodeClassE_eq_undefE (h : kkOf w ∉ Instr.definedE) : decodeClassE w = .undefE (xOf w) (kkOf w) := by
  unfold decodeClassE
  split
  case h_3 => rfl
  all_goals
    rename_i hkk
    exact absurd (hkk ▸ by decide) h

theorem decodeClassF_eq_undefF (h : kkOf w ∉ Instr.definedF) : decodeClassF w = .undefF (xOf w) (kkOf w) := by
  unfold decodeClassF
  split
  case h_10 => rfl
  all_goals
    rename_i hkk
    exact absurd (hkk ▸ by decide) h

end Fallback

/-- Settles O1: the fields of a format are its operands, and a well-formed fallback instruction has a discriminant that
no row above it takes. -/
theorem decodeOfEncodeIsTheInstruction : Obligations.DecodeOfEncodeIsTheInstruction := by
  intro i hi
  cases i with
  | sys nnn =>
    have hkk := wellFormed_sys_iff.1 hi
    rw [← kkOf_formatFA 0x0#4] at hkk
    simp [encode, decodeWord, decodeClass0_eq_sys hkk]
  | undefE x kk =>
    have hkk := wellFormed_undefE_iff.1 hi
    simp [encode, decodeWord, decodeClassE_eq_undefE, hkk]
  | undefF x kk =>
    have hkk := wellFormed_undefF_iff.1 hi
    simp [encode, decodeWord, decodeClassF_eq_undefF, hkk]
  | cls | ret => simp [encode, decodeWord, decodeClass0]
  | ldReg | orReg | andReg | xorReg | addReg | subReg | shrReg | subnReg | shlReg | undef88 | undef89 | undef8A
  | undef8B | undef8C | undef8D | undef8F => simp [encode, decodeWord, decodeClass8]
  | skp | sknp => simp [encode, decodeWord, decodeClassE]
  | ldDt | ldKey | setDt | setSt | addI | ldFont | ldBcd | storeRegs | loadRegs =>
    simp [encode, decodeWord, decodeClassF]
  | jp | call | seByte | sneByte | seReg | ldByte | addByte | sneReg | ldI | jpV0 | rnd | drw =>
    simp [encode, decodeWord]

/-! ### Every word is the word of what it decodes to -/

/-- `i` is an instruction of the opcode map, and `w` is its word. -/
def IsWordOf (w : Word) (i : Instr) : Prop := i.WellFormed ∧ encode i = w

section WordOf

variable {w : Word} {op : BitVec 4}

theorem formatFA_of_fields (hop : opOf w = op) : formatFA op (nnnOf w) = w := by
  rw [← hop, formatFA_fields]

theorem formatFXK_of_fields {kk : Byte} (hop : opOf w = op) (hkk : kkOf w = kk) : formatFXK op (xOf w) kk = w := by
  rw [← hop, ← hkk, formatFXK_fields]

theorem formatFXYN_of_fields {n : Nibble} (hop : opOf w = op) (hn : nOf w = n) :
    formatFXYN op (xOf w) (yOf w) n = w := by
  rw [← hop, ← hn, formatFXYN_fields]

/-- The low byte of the address field is the field `kk` (R55). -/
theorem setWidth_nnnOf (w : Word) : (nnnOf w).setWidth 8 = kkOf w := by
  rw [← kkOf_formatFA (opOf w), formatFA_fields]

theorem isWordOf_decodeClass0 (hop : opOf w = 0x0#4) : IsWordOf w (decodeClass0 w) := by
  unfold decodeClass0
  split
  case h_3 hcls hret =>
    refine ⟨wellFormed_sys_iff.2 ?_, formatFA_of_fields hop⟩
    rw [setWidth_nnnOf]
    exact ⟨hcls, hret⟩
  all_goals exact ⟨rfl, formatFXK_of_fields hop ‹_›⟩

theorem isWordOf_decodeClass8 (hop : opOf w = 0x8#4) : IsWordOf w (decodeClass8 w) := by
  unfold decodeClass8
  split
  case h_16 =>
    have hn : nOf w = 0xF#4 := by
      simp only [imp_false] at *
      bv_omega
    exact ⟨rfl, formatFXYN_of_fields hop hn⟩
  all_goals exact ⟨rfl, formatFXYN_of_fields hop ‹_›⟩

theorem isWordOf_decodeClassE (hop : opOf w = 0xE#4) : IsWordOf w (decodeClassE w) := by
  unfold decodeClassE
  split
  case h_3 =>
    refine ⟨wellFormed_undefE_iff.2 ?_, formatFXK_of_fields hop rfl⟩
    simp_all [Instr.definedE]
  all_goals exact ⟨rfl, formatFXK_of_fields hop ‹_›⟩

theorem isWordOf_decodeClassF (hop : opOf w = 0xF#4) : IsWordOf w (decodeClassF w) := by
  unfold decodeClassF
  split
  case h_10 =>
    refine ⟨wellFormed_undefF_iff.2 ?_, formatFXK_of_fields hop rfl⟩
    simp_all [Instr.definedF]
  all_goals exact ⟨rfl, formatFXK_of_fields hop ‹_›⟩

end WordOf

/-- Settles O2, class by class. -/
theorem everyWordIsOneWellFormedInstruction : Obligations.EveryWordIsOneWellFormedInstruction := by
  intro w
  change IsWordOf w (decodeWord w)
  unfold decodeWord
  split
  case h_1 hop => exact isWordOf_decodeClass0 hop
  case h_9 hop => exact isWordOf_decodeClass8 hop
  case h_15 hop => exact isWordOf_decodeClassE hop
  case h_16 =>
    have hop : opOf w = 0xF#4 := by
      simp only [imp_false] at *
      bv_omega
    exact isWordOf_decodeClassF hop
  case h_2 | h_3 | h_11 | h_12 => exact ⟨rfl, formatFA_of_fields ‹_›⟩
  case h_4 | h_5 | h_7 | h_8 | h_13 => exact ⟨rfl, formatFXK_of_fields ‹_› rfl⟩
  case h_6 | h_10 | h_14 => exact ⟨rfl, formatFXYN_of_fields ‹_› rfl⟩

/-! ### The opcode table (R60): what the test of a row says of the fields of a word -/

section Rows

open Sys2Proof.Laws

variable {w p : Word}

theorem and_F000_eq (w : Word) : w &&& 0xF000#16 = formatFA (opOf w) 0#12 := by
  rw [← formatFA_and_F000 _ (nnnOf w), formatFA_fields]

theorem and_F0FF_eq (w : Word) : w &&& 0xF0FF#16 = formatFXK (opOf w) 0 (kkOf w) := by
  rw [← formatFXK_and_F0FF _ (xOf w), formatFXK_fields]

theorem and_F00F_eq (w : Word) : w &&& 0xF00F#16 = formatFXYN (opOf w) 0 0 (nOf w) := by
  rw [← formatFXYN_and_F00F _ (xOf w) (yOf w), formatFXYN_fields]

/-! A pattern that its mask keeps is fitted by the words that share its class and its discriminant. The fields of the
pattern are written as slices, which `simp` evaluates. -/

@[simp] theorem beq_pattern_F000 (hp : p &&& 0xF000#16 = p) :
    (w &&& 0xF000#16 == p) = decide (opOf w = p.extractLsb' 12 4) := by
  change _ = decide (opOf w = opOf p)
  rw [beq_eq_decide, decide_eq_decide, ← hp, and_F000_eq, and_F000_eq, opOf_formatFA]
  exact ⟨fun h => by simpa using congrArg opOf h, fun hop => by rw [hop]⟩

@[simp] theorem beq_pattern_F0FF (hp : p &&& 0xF0FF#16 = p) :
    (w &&& 0xF0FF#16 == p) = decide (opOf w = p.extractLsb' 12 4 ∧ kkOf w = p.extractLsb' 0 8) := by
  change _ = decide (opOf w = opOf p ∧ kkOf w = kkOf p)
  rw [beq_eq_decide, decide_eq_decide, ← hp, and_F0FF_eq, and_F0FF_eq, opOf_formatFXK, kkOf_formatFXK]
  refine ⟨fun h => ⟨?_, ?_⟩, fun ⟨hop, hkk⟩ => by rw [hop, hkk]⟩
  · simpa using congrArg opOf h
  · simpa using congrArg kkOf h

@[simp] theorem beq_pattern_F00F (hp : p &&& 0xF00F#16 = p) :
    (w &&& 0xF00F#16 == p) = decide (opOf w = p.extractLsb' 12 4 ∧ nOf w = p.extractLsb' 0 4) := by
  change _ = decide (opOf w = opOf p ∧ nOf w = nOf p)
  rw [beq_eq_decide, decide_eq_decide, ← hp, and_F00F_eq, and_F00F_eq, opOf_formatFXYN, nOf_formatFXYN]
  refine ⟨fun h => ⟨?_, ?_⟩, fun ⟨hop, hn⟩ => by rw [hop, hn]⟩
  · simpa using congrArg opOf h
  · simpa using congrArg nOf h

end Rows

/-- What the first row of the opcode table that fits `w` builds. -/
def tableDecode (w : Word) : Option Instr :=
  (opcodeTable.find? fun r => w &&& r.mask == r.pattern).map fun r => r.build w

/-- The word of a well-formed instruction fits the row of the instruction and no row above it. -/
theorem tableDecode_encode {i : Instr} (hi : i.WellFormed) : tableDecode (encode i) = some i := by
  unfold tableDecode opcodeTable tableRows1 tableRows2 tableRows3
  cases i with
  | sys nnn =>
    obtain ⟨hcls, hret⟩ := wellFormed_sys_iff.1 hi
    simp [encode, hcls, hret]
  | undefE x kk =>
    have hkk := wellFormed_undefE_iff.1 hi
    simp only [Instr.definedE, BitVec.ofNat_eq_ofNat, List.mem_cons, List.not_mem_nil, or_false, not_or] at hkk
    simp [encode, hkk]
  | undefF x kk =>
    have hkk := wellFormed_undefF_iff.1 hi
    simp only [Instr.definedF, BitVec.ofNat_eq_ofNat, List.mem_cons, List.not_mem_nil, or_false, not_or] at hkk
    simp [encode, hkk]
  | _ => simp [encode]

/-- Settles O3: every word is the word of a well-formed instruction, and that one reaches its row. -/
theorem decoderAgreesWithTheOpcodeTable : Obligations.DecoderAgreesWithTheOpcodeTable := by
  intro w
  obtain ⟨hwf, hencode⟩ := everyWordIsOneWellFormedInstruction w
  have hrow := tableDecode_encode hwf
  rwa [hencode] at hrow

/-! ### Fields as numbers, words written out, and the bits that no rule reads -/

/-- Settles O4: a slice of a word is a quotient and a remainder of it by powers of two. -/
theorem fieldsAreTheirBits : Obligations.FieldsAreTheirBits := by
  intro w
  have hw := w.isLt
  simp only [opOf, xOf, yOf, nOf, kkOf, nnnOf, BitVec.val_toFin, BitVec.extractLsb'_toNat, Nat.shiftRight_eq_div_pow,
    true_and]
  omega

/-- Settles O5, by evaluating the decoder on the words that the statement names. -/
theorem wordsOfEachFamilyDecode : Obligations.WordsOfEachFamilyDecode := by
  unfold Obligations.WordsOfEachFamilyDecode
  decide

end Sys2Proof

namespace Sys2Proof.Machine

theorem shiftSource_of_vx {s : State} (h : s.params.shiftSrc = .vx) (x y : Reg) : shiftSource s x y = x := by
  simp [shiftSource, h]

/-- Settles O6: no meaning names its unread bits, and a shift under `P_SHIFT_SRC = VX` reads Vx. -/
theorem unreadBitsHaveNoEffect : Obligations.UnreadBitsHaveNoEffect := by
  intro s x x' y y' n n'
  refine ⟨rfl, rfl, rfl, rfl, fun hvx => ?_⟩
  simp only [exec, execShr, execShl, shiftSource_of_vx hvx, and_self]

end Sys2Proof.Machine

/-! ## The step cycle: the word at `pc`, the advance, and where `pc` goes (spec/40_step_cycle.md) -/

namespace Sys2Proof

/-! ### A field of a word is a value if its bits are, as numbers (R55) -/

section FieldValues

variable {w : Word}

theorem opOf_eq_iff {op : BitVec 4} : opOf w = op ↔ w.toNat / 4096 = op.toNat := by
  obtain ⟨hop, -⟩ := fieldsAreTheirBits w
  rw [← BitVec.toNat_inj, hop]

theorem nOf_eq_iff {n : Nibble} : nOf w = n ↔ w.toNat % 16 = n.toNat := by
  obtain ⟨-, -, -, hn, -⟩ := fieldsAreTheirBits w
  rw [← BitVec.toNat_inj, hn]

theorem kkOf_eq_iff {kk : Byte} : kkOf w = kk ↔ w.toNat % 256 = kk.toNat := by
  obtain ⟨-, -, -, -, hkk, -⟩ := fieldsAreTheirBits w
  rw [← BitVec.toNat_inj, hkk]

end FieldValues

/-- The host's layout of a table word is big-endian, so the decoder reads the word back (R44). -/
theorem decodeTableWord_eq {nbits : Nat} (w : Nat) (h : nbits ≤ 16) :
    decodeTableWord nbits w = some (decodeWord (BitVec.ofNat 16 (w % 2 ^ nbits))) := by
  simp [decodeTableWord, decode, h]

end Sys2Proof

namespace Sys2Proof.Machine

open Sys2Proof.Spec

/-- The advance, written out (R67). -/
theorem State.advance_eq (s : State) :
    s.advance = { s with pc := BitVec.ofNat 16 ((s.pc.toNat + 2) % 2 ^ 16) } := by
  have hpc : s.pc + 2#16 = BitVec.ofNat 16 ((s.pc.toNat + 2) % 2 ^ 16) := BitVec.eq_of_toNat_eq (by simp)
  rw [← hpc]
  rfl

/-- Settles O7: the word is the fetched one, and every word is a well-formed instruction. -/
theorem stepRunsTheDecodedInstruction : Obligations.StepRunsTheDecodedInstruction := by
  intro s hmark hpc
  obtain ⟨hwf, -⟩ := everyWordIsOneWellFormedInstruction s.fetchWord
  refine ⟨s.fetchWord, s.toNat_fetchWord, hwf, ?_⟩
  rw [← State.advance_eq]
  exact step_eq_exec hmark (s.canFetch_iff.2 hpc)

/-! ### The no-ops (R61, R71, R79) -/

/-- A no-op word reaches SYS or an undefined instruction, class by class. -/
theorem exec_decodeWord_of_isNoOpWord {w : Word} (h : IsNoOpWord w) (s : State) :
    exec (decodeWord w) s = .next s := by
  obtain ⟨hop, hcls, hret⟩ | ⟨hop, hn⟩ | ⟨hop, hskp, hsknp⟩ | ⟨hop, hkk⟩ := h
  · have hdecode : decodeWord w = decodeClass0 w := by simp [decodeWord, opOf_eq_iff (op := 0x0#4).2 hop]
    rw [hdecode, decodeClass0_eq_sys ⟨kkOf_eq_iff.not.2 hcls, kkOf_eq_iff.not.2 hret⟩]
    rfl
  · have hdecode : decodeWord w = decodeClass8 w := by simp [decodeWord, opOf_eq_iff (op := 0x8#4).2 hop]
    rw [hdecode, decodeClass8]
    have hnibble : nOf w ∈ [0x8#4, 0x9#4, 0xA#4, 0xB#4, 0xC#4, 0xD#4, 0xF#4] := by simpa [nOf_eq_iff] using hn
    simp only [List.mem_cons, List.not_mem_nil, or_false] at hnibble
    obtain h | h | h | h | h | h | h := hnibble <;>
    · rw [h]
      rfl
  · have hdecode : decodeWord w = decodeClassE w := by simp [decodeWord, opOf_eq_iff (op := 0xE#4).2 hop]
    rw [hdecode, decodeClassE_eq_undefE (by simp [Instr.definedE, kkOf_eq_iff, hskp, hsknp])]
    rfl
  · have hdecode : decodeWord w = decodeClassF w := by simp [decodeWord, opOf_eq_iff (op := 0xF#4).2 hop]
    rw [hdecode, decodeClassF_eq_undefF (by simpa [Instr.definedF, kkOf_eq_iff] using hkk)]
    rfl

/-- Settles O14: each of these meanings is the state it is given, and after the advance a step over such a word runs
one of them. -/
theorem sysAndUndefinedWordsAreNoOps : Obligations.SysAndUndefinedWordsAreNoOps := by
  refine ⟨fun s nnn x y kk => ⟨rfl, rfl, rfl, rfl, rfl, rfl, rfl, rfl, rfl, rfl⟩, fun s hmark hpc hword => ?_⟩
  rw [step_eq_exec hmark (s.canFetch_iff.2 hpc)]
  exact exec_decodeWord_of_isNoOpWord hword s.advance

/-! ### What an instruction does to `pc` (R72, R78) -/

/-- `i`, run in `s`, gives `pc` a value of its own: FX0A with no key pressed goes back, and the jumps, CALL and RET
assign it. -/
def AssignsPc (i : Instr) (s : State) : Prop :=
  (∃ x, i = .ldKey x ∧ ∀ k, s.getKey k = false) ∨
  (∃ nnn, i = .jp nnn ∨ i = .call nnn ∨ i = .jpV0 nnn) ∨
  (∃ x, i = .ret x)

/-- Every other instruction leaves `pc` where the advance put it, or skips one instruction more. -/
theorem exec_pc_cases (i : Instr) (s : State) :
    Out.Ensures (fun t => AssignsPc i s ∨ t.pc = s.pc ∨ t.pc = s.pc + 2#16) (exec i s) := by
  have hskip (c : Bool) : AssignsPc i s ∨ (s.skipIf c).pc = s.pc ∨ (s.skipIf c).pc = s.pc + 2#16 :=
    State.skipIf_ensures (P := fun t => AssignsPc i s ∨ t.pc = s.pc ∨ t.pc = s.pc + 2#16)
      (.inr (.inr rfl)) (.inr (.inl rfl)) c
  cases i with
  | jp nnn => exact .inl (.inr (.inl ⟨nnn, .inl rfl⟩))
  | jpV0 nnn => exact .inl (.inr (.inl ⟨nnn, .inr (.inr rfl)⟩))
  | call nnn => exact Out.ensures_iff.2 fun _ _ => .inl (.inr (.inl ⟨nnn, .inr (.inl rfl)⟩))
  | ret x => exact Out.ensures_iff.2 fun _ _ => .inl (.inr (.inr ⟨x, rfl⟩))
  | ldKey x =>
    simp only [exec, execLdKey]
    split
    · exact .inr (.inl rfl)
    · exact .inl (.inl ⟨x, rfl, lowestPressed_eq_none.1 ‹_›⟩)
  | seByte | sneByte | seReg | sneReg => exact hskip _
  | skp => exact execSkp_ensures hskip
  | sknp => exact execSknp_ensures hskip
  | _ =>
    refine Out.ensures_iff.2 fun t ht => .inr (.inl (everyInstructionStaysInItsFootprint _ s t ht .pc ?_))
    simp [footprint, bytesFrom, anyPixel, upToV, ldstI]

/-- Settles O15: without an assignment, `pc` ends 2 or 4 past the instruction, which mod 2^16 is not where it was. -/
theorem onlyKeyWaitAndJumpsRepeat : Obligations.OnlyKeyWaitAndJumpsRepeat := by
  intro s t hstep hpc
  obtain ⟨-, -, hexec⟩ := step_eq_next.1 hstep
  obtain hassigns | hstay | hskip := Out.ensures_iff.1 (exec_pc_cases _ s.advance) t hexec
  · exact hassigns
  · rw [hpc, State.advance_pc] at hstay
    bv_omega
  · rw [hpc, State.advance_pc] at hskip
    bv_omega

/-! ### A word placed where the next step fetches it (R44, R65) -/

section Placing

variable (s : State) (w : Word)

@[simp] theorem State.readyToFetch_mark : s.readyToFetch.mark = none := rfl

@[simp] theorem State.canFetch_readyToFetch : s.readyToFetch.canFetch = true := by
  rw [State.canFetch_iff]
  unfold State.readyToFetch
  by_cases h : s.canFetch = true
  · simpa [h] using s.canFetch_iff.1 h
  · simp [h, Config.progBase]

theorem Frame.readyToFetch : Frame (fun c => c = .mark ∨ (c = .pc ∧ 0xFFE < s.pc.toNat)) s s.readyToFetch := by
  intro c hc
  cases c with
  | mark => exact absurd (.inl rfl) hc
  | pc =>
    have hpc : s.pc.toNat ≤ 0xFFE := Nat.le_of_not_lt fun h => hc (.inr ⟨rfl, h⟩)
    exact if_pos (s.canFetch_iff.2 hpc)
  | _ => rfl

@[simp] theorem State.placeWord_pc : (s.placeWord w).pc = s.pc := by
  rw [State.placeWord, State.writeBytes_eq]

@[simp] theorem State.placeWord_mark : (s.placeWord w).mark = s.mark := by
  rw [State.placeWord, State.writeBytes_eq]

@[simp] theorem State.canFetch_placeWord : (s.placeWord w).canFetch = s.canFetch := by
  simp [State.canFetch]

@[simp] theorem State.readByte_placeWord_high : (s.placeWord w).readByte s.pc.toNat = highByte w := by
  simp [State.placeWord, State.readByte_writeBytes]

@[simp] theorem State.readByte_placeWord_low : (s.placeWord w).readByte (s.pc.toNat + 1) = lowByte w := by
  simp [State.placeWord, State.readByte_writeBytes]

/-- The fetch reads back the two bytes that were placed (R44). -/
@[simp] theorem State.fetchWord_placeWord : (s.placeWord w).fetchWord = w := by
  simp [State.fetchWord]

theorem Frame.placeWord : Frame (bytesFrom s.pc.toNat 2) s (s.placeWord w) :=
  Frame.writeBytes s s.pc.toNat [highByte w, lowByte w]

end Placing

/-- Settles O16: the placed state can fetch, and fetches the word. -/
theorem aPlacedWordIsTheNextInstruction : Obligations.APlacedWordIsTheNextInstruction := by
  intro s nbits w hnbits
  obtain ⟨-, hencode⟩ := everyWordIsOneWellFormedInstruction (BitVec.ofNat 16 (w % 2 ^ nbits))
  refine ⟨_, decodeTableWord_eq w hnbits, hencode, ?_, ?_⟩ <;> unfold State.withFetchWord
  · rw [step_eq_exec (by simp) (by simp), State.fetchWord_placeWord]
  · rw [State.placeWord_pc]
    exact ((Frame.readyToFetch s).comp (Frame.placeWord _ _)).mono fun _ => or_assoc.1

end Sys2Proof.Machine

/-! ## Display: clearing the screen and drawing a sprite (spec/41_display.md) -/

namespace Sys2Proof

open Sys2Proof.Spec

/-! ### The word of an instruction as a number (R56) -/

/-- Words that are put together do not overlap: their numbers add up. -/
theorem toNat_append_eq_add {v w : Nat} (a : BitVec v) (b : BitVec w) :
    (a ++ b).toNat = a.toNat * 2 ^ w + b.toNat := by
  rw [BitVec.toNat_append, ← Nat.shiftLeft_add_eq_or_of_lt b.isLt, Nat.shiftLeft_eq]

theorem toNat_formatFXK (op : BitVec 4) (x : Reg) (kk : Byte) :
    (formatFXK op x kk).toNat = op.toNat * 0x1000 + x.val * 0x100 + kk.toNat := by
  simp only [formatFXK, toNat_append_eq_add, BitVec.toNat_ofFin]
  omega

theorem toNat_formatFXYN (op : BitVec 4) (x y : Reg) (n : Nibble) :
    (formatFXYN op x y n).toNat = op.toNat * 0x1000 + x.val * 0x100 + y.val * 0x10 + n.toNat := by
  simp only [formatFXYN, toNat_append_eq_add, BitVec.toNat_ofFin]
  omega

/-- The number of an instruction's word decodes to the instruction. -/
theorem encodes_of_toNat_encode {i : Instr} {n : Nat} (hi : i.WellFormed) (h : (encode i).toNat = n) :
    Encodes n i := by
  rw [Encodes, ← h, BitVec.ofNat_toNat, BitVec.setWidth_eq]
  exact decodeOfEncodeIsTheInstruction i hi

end Sys2Proof

namespace Sys2Proof.Machine

open Sys2Proof.Spec

/-! ### Flags, and a block that leaves memory -/

@[simp] theorem flagByte_eq_one_iff {c : Bool} : flagByte c = 1#8 ↔ c = true := by
  cases c <;> decide

@[simp] theorem flagByte_eq_zero_iff {c : Bool} : flagByte c = 0#8 ↔ c = false := by
  cases c <;> decide

theorem lowestOutOfRange_of_lt {base len : Nat} (hlen : 0 < len) (h : Config.memSize < base + len) :
    lowestOutOfRange base len = some (max base Config.memSize) :=
  if_pos ⟨hlen, h⟩

/-! ### Clearing (R75) -/

@[simp] theorem Framebuffer.cell_blank (x : Fin 64) (y : Fin 32) :
    Framebuffer.cell (Vector.replicate 32 0#64) x y = false := by
  simp [Framebuffer.cell]

/-- Settles O17: every row of the new framebuffer is 0, and the frame is the footprint of CLS. -/
theorem clearSetsEveryCellToZero : Obligations.ClearSetsEveryCellToZero := by
  intro s x
  have hword : (encode (.cls x)).toNat = x.val * 0x100 + 0xE0 := by simp [encode, toNat_formatFXK]
  exact ⟨encodes_of_toNat_encode rfl hword, _, rfl, Framebuffer.cell_blank,
    everyInstructionStaysInItsFootprint (.cls x) s _ rfl⟩

/-! ### Drawings over the same cells -/

section DrawnTwice

variable {sets : Fin 64 → Fin 32 → Prop} {fb : Framebuffer} {b b' c c' : Blit}

/-- A drawing that starts without a hit has one exactly if a set cell is drawn over. -/
theorem DrawnBy.hit_of_start (h : DrawnBy sets ⟨fb, false⟩ b') :
    b'.hit = true ↔ ∃ x y, sets x y ∧ fb.cell x y = true := by
  simpa using h.hit

/-- Two toggles of the same cells cancel. -/
theorem DrawnBy.cell_of_twice (h₁ : DrawnBy sets b b') (h₂ : DrawnBy sets c c') (hfb : c.fb = b'.fb)
    (x : Fin 64) (y : Fin 32) : c'.fb.cell x y = b.fb.cell x y := by
  rw [Bool.eq_iff_iff, h₂.cell, hfb, h₁.cell]
  by_cases hsets : sets x y <;> simp [hsets]

/-- A cell that is drawn over and set afterwards is one that the drawing has set. -/
theorem DrawnBy.sets_and_cell_iff (h : DrawnBy sets b b') (x : Fin 64) (y : Fin 32) :
    sets x y ∧ b'.fb.cell x y = true ↔ b.fb.cell x y = false ∧ b'.fb.cell x y = true := by
  rw [h.cell]
  by_cases hsets : sets x y <;> simp [hsets]

end DrawnTwice

/-! ### Drawing a sprite (R76) -/

section Drawing

variable {s t u : State} {x y : Reg} {n : Nibble}

/-- The rows of the sprite are the bytes at `I`. -/
theorem spriteSets_readBytes (s : State) (n bx py : Nat) :
    SpriteSets (s.readBytes s.I.toNat n) bx py = SpriteCovers s n bx py := by
  funext px row
  simp only [SpriteSets, RowSets, SpriteCovers, State.length_readBytes, State.getElem_readBytes, exists_prop,
    exists_and_left]

/-- The cells that a sprite covers depend on `I` and on memory alone. -/
theorem spriteCovers_congr (hI : u.I = s.I) (hread : ∀ a, u.readByte a = s.readByte a) (n bx py : Nat) :
    SpriteCovers u n bx py = SpriteCovers s n bx py := by
  funext px row
  simp only [SpriteCovers, hI, hread]

/-- The framebuffer that DXYN leaves when it runs in `s`, and whether a set cell was toggled. -/
def drawing (s : State) (x y : Reg) (n : Nibble) : Blit :=
  Blit.rows ⟨s.fb, false⟩ (s.getV x).toNat (s.getV y).toNat (s.readBytes s.I.toNat n.toNat)

/-- A sprite of at most 15 rows meets no cell twice, so the drawing toggles what the sprite covers. -/
theorem drawing_drawn (s : State) (x y : Reg) (n : Nibble) :
    DrawnBy (SpriteCovers s n.toNat (s.getV x).toNat (s.getV y).toNat) ⟨s.fb, false⟩ (drawing s x y n) := by
  rw [← spriteSets_readBytes]
  exact Blit.rows_drawn _ _ _ _ (by rw [State.length_readBytes]; omega)

/-- DRW completes exactly where its rows lie in memory, and then shows the drawing and writes the flag. -/
theorem exec_drw_eq_next : exec (.drw x y n) s = .next t ↔
    lowestOutOfRange s.I.toNat n.toNat = none ∧
      t = (s.setFb (drawing s x y n).fb).setV VF (flagByte (drawing s x y n).hit) := by
  simp only [exec, execDrw]
  split
  next hout => simp [hout, raiseUndefined]
  next hin => simp [hin, drawing, eq_comm]

end Drawing

/-- Settles O18: the drawing toggles the cells that the sprite covers, and the range check comes before it. -/
theorem drawTogglesTheSpriteCells : Obligations.DrawTogglesTheSpriteCells := by
  intro s x y n
  have hword : (encode (.drw x y n)).toNat = 0xD000 + x.val * 0x100 + y.val * 0x10 + n.toNat := by
    simp [encode, toNat_formatFXYN]
  refine ⟨encodes_of_toNat_encode rfl hword, fun hin => ?_, fun hn hout => ?_⟩
  · have hnext := (exec_drw_eq_next (x := x) (y := y)).2 ⟨lowestOutOfRange_eq_none.2 hin, rfl⟩
    have hdrawn := drawing_drawn s x y n
    refine ⟨_, hnext, hdrawn.cell, fun hcollides => ?_, fun hclear => ?_,
      everyInstructionStaysInItsFootprint _ s _ hnext⟩
    · rw [State.getV_setV_same, flagByte_eq_one_iff]
      exact hdrawn.hit_of_start.2 hcollides
    · rw [State.getV_setV_same, flagByte_eq_zero_iff, Bool.eq_false_iff]
      exact mt hdrawn.hit_of_start.1 hclear
  · exact exec_eq_raiseUndefined_of_lowestOutOfRange rfl (lowestOutOfRange_of_lt hn hout)

/-- Settles O19: the second draw covers the cells of the first, so they are toggled back, and it collides on a cell
that the first draw set. -/
theorem drawingTwiceRestoresTheFramebuffer : Obligations.DrawingTwiceRestoresTheFramebuffer := by
  intro s t u x y x' y' n hfirst hfb hI hx hy hread
  obtain ⟨hin, rfl⟩ := exec_drw_eq_next.1 hfirst
  have hdrawn := drawing_drawn s x y n
  have hredrawn := drawing_drawn u x' y' n
  rw [hx, hy, spriteCovers_congr hI hread] at hredrawn
  refine ⟨_, exec_drw_eq_next.2 ⟨hI ▸ hin, rfl⟩, hdrawn.cell_of_twice hredrawn hfb, ?_⟩
  rw [State.getV_setV_same, flagByte_eq_one_iff, hredrawn.hit_of_start, hfb]
  exact exists_congr fun px => exists_congr fun py => hdrawn.sets_and_cell_iff px py

end Sys2Proof.Machine

/-! ## Control flow: jumps, calls, returns and the compare skips (spec/42_flow.md) -/

namespace Sys2Proof

theorem toNat_formatFA (op : BitVec 4) (nnn : Addr12) : (formatFA op nnn).toNat = op.toNat * 0x1000 + nnn.toNat :=
  toNat_append_eq_add op nnn

end Sys2Proof

namespace Sys2Proof.Machine

/-! ### Jumps (R81, R87) -/

@[simp] theorem toNat_addrOf (nnn : Addr12) : (addrOf nnn).toNat = nnn.toNat :=
  BitVec.toNat_setWidth_of_le (by decide)

/-- Settles O21: the word of JP is its class and its address, and the address is the new `pc`. -/
theorem jumpSetsPc : Obligations.JumpSetsPc := by
  intro s nnn
  have hword : (encode (.jp nnn)).toNat = 0x1000 + nnn.toNat := by simp [encode, toNat_formatFA]
  exact ⟨encodes_of_toNat_encode rfl hword, _, rfl, toNat_addrOf nnn, Frame.setPc s _⟩

/-- A 12-bit address and a byte add up to less than 2^16 (R87). -/
theorem toNat_addrOf_add (nnn : Addr12) (b : Byte) :
    (addrOf nnn + b.setWidth 16).toNat = nnn.toNat + b.toNat := by
  have hnnn := nnn.isLt
  have hb := b.isLt
  rw [BitVec.toNat_add, toNat_addrOf, BitVec.toNat_setWidth_of_le (by decide)]
  omega

/-- Settles O22: the sum of the address and V0 is the new `pc`. -/
theorem jumpV0AddsV0 : Obligations.JumpV0AddsV0 := by
  intro s nnn
  have hword : (encode (.jpV0 nnn)).toNat = 0xB000 + nnn.toNat := by simp [encode, toNat_formatFA]
  exact ⟨encodes_of_toNat_encode rfl hword, _, rfl, toNat_addrOf_add nnn _, toNat_addrOf_add_le nnn _,
    Frame.setPc s _⟩

/-! ### CALL and RET (R80, R82) -/

section Stack

variable {s : State} {j : Fin 16}

theorem State.top_eq_getStack (hSP : s.SP.val = j.val + 1) :
    s.top (by omega) = s.getStack j := by
  simp [State.top, State.getStack, hSP]

theorem exec_ret_of_nonempty (x : Reg) (hSP : s.SP.val = j.val + 1) :
    exec (.ret x) s = .next (s.pop.setPc (s.getStack j)) := by
  rw [← State.top_eq_getStack hSP]
  exact execRet_of_pos (x := x) _

end Stack

/-- Settles O20: the popped entry is the new `pc`, and the frame is the footprint of RET. -/
theorem returnPopsTheStack : Obligations.ReturnPopsTheStack := by
  intro s x
  have hword : (encode (.ret x)).toNat = x.val * 0x100 + 0xEE := by simp [encode, toNat_formatFXK]
  refine ⟨encodes_of_toNat_encode rfl hword, fun hempty => execRet_of_empty (x := x) (by omega), fun j hSP => ?_⟩
  have hnext := exec_ret_of_nonempty x hSP
  have hframe := everyInstructionStaysInItsFootprint _ s _ hnext
  exact ⟨_, hnext, by simp [hSP], rfl, hframe.mono fun _ => And.left⟩

/-- Settles O23: the entry that SP names takes the old `pc`, and the frame is the footprint of CALL. -/
theorem callPushesOrIsDropped : Obligations.CallPushesOrIsDropped := by
  intro s nnn
  have hword : (encode (.call nnn)).toNat = 0x2000 + nnn.toNat := by simp [encode, toNat_formatFA]
  refine ⟨encodes_of_toNat_encode rfl hword, fun hfull => execCall_of_full (by omega), fun j hSP => ?_⟩
  have hnext : exec (.call nnn) s = .next ((s.push s.pc (by omega)).setPc (addrOf nnn)) := execCall_of_lt _
  have hframe := everyInstructionStaysInItsFootprint _ s _ hnext
  refine ⟨_, hnext, ?_, by simp [hSP], toNat_addrOf nnn, hframe.mono ?_⟩
  · rw [State.setPc_getStack, State.getStack_push, if_pos hSP.symm]
  · rintro c ⟨hpc | hSP' | ⟨k, hk, hstack⟩, -⟩
    · exact .inl hpc
    · exact .inr (.inl hSP')
    · obtain rfl : k = j := Fin.ext (hk.trans hSP)
      exact .inr (.inr hstack)

/-- Settles O24: CALL puts `pc` in the entry at SP and keeps the entries below it, and RET in `u` pops that entry. -/
theorem callThenReturnComesBack : Obligations.CallThenReturnComesBack := by
  intro s t u nnn x hlt hcall hSP hstack
  obtain ⟨j, hj⟩ : ∃ j : Fin 16, s.SP.val = j.val := ⟨⟨s.SP.val, hlt⟩, rfl⟩
  obtain ⟨-, -, hpush⟩ := callPushesOrIsDropped s nnn
  obtain ⟨t', hcall', hentry, htSP, -, hcallFrame⟩ := hpush j hj
  obtain rfl : t' = t := by simpa [hcall'] using hcall
  obtain ⟨-, -, hpop⟩ := returnPopsTheStack u x
  obtain ⟨v, hret, hvSP, hvpc, hretFrame⟩ := hpop j (hSP ▸ htSP)
  have hkept (i : Fin 16) : u.getStack i = t'.getStack i := by rw [State.getStack, hstack, State.getStack]
  refine ⟨v, hret, hvpc.trans ((hkept j).trans hentry), Fin.ext (hvSP.trans hj.symm), fun i hi => ?_⟩
  have hne : i ≠ j := Fin.ne_of_lt (hi.trans_eq hj)
  calc v.getStack i
    _ = u.getStack i := hretFrame (.stack i) (by simp)
    _ = t'.getStack i := hkept i
    _ = s.getStack i := hcallFrame (.stack i) (by simp [hne])

/-! ### The compare skips (R78, R83 to R86) -/

section Skip

variable (s : State)

theorem State.toNat_pc_skipIf (c : Bool) :
    (s.skipIf c).pc.toNat = if c then (s.pc.toNat + 2) % 2 ^ 16 else s.pc.toNat := by
  cases c
  · rfl
  · exact BitVec.toNat_add _ _

theorem State.toNat_pc_skipIf_beq (a b : Byte) :
    (s.skipIf (a == b)).pc.toNat = if a.toNat = b.toNat then (s.pc.toNat + 2) % 2 ^ 16 else s.pc.toNat := by
  simp only [State.toNat_pc_skipIf, beq_iff_eq, BitVec.toNat_inj]

theorem State.toNat_pc_skipIf_bne (a b : Byte) :
    (s.skipIf (a != b)).pc.toNat = if a.toNat = b.toNat then s.pc.toNat else (s.pc.toNat + 2) % 2 ^ 16 := by
  simp only [State.toNat_pc_skipIf, bne_iff_ne, BitVec.toNat_inj, ite_not]

end Skip

/-- Settles O25: each of the four is a skip on the equality of two bytes or on its negation. -/
theorem compareSkipsPassOneWord : Obligations.CompareSkipsPassOneWord := by
  intro s x y kk n
  refine ⟨⟨encodes_of_toNat_encode rfl ?_, _, rfl, s.toNat_pc_skipIf_beq _ _, Frame.skipIf s _⟩,
    ⟨encodes_of_toNat_encode rfl ?_, _, rfl, s.toNat_pc_skipIf_bne _ _, Frame.skipIf s _⟩,
    ⟨encodes_of_toNat_encode rfl ?_, _, rfl, s.toNat_pc_skipIf_beq _ _, Frame.skipIf s _⟩,
    ⟨encodes_of_toNat_encode rfl ?_, _, rfl, s.toNat_pc_skipIf_bne _ _, Frame.skipIf s _⟩⟩
  all_goals simp [encode, toNat_formatFXK, toNat_formatFXYN]

end Sys2Proof.Machine

/-! ## Registers and the ALU: loads, arithmetic and shifts with a flag, and the random byte (spec/43_alu.md) -/

namespace Sys2Proof

open Sys2Proof.Spec

/-- The words of class 8 (R56, R59): the low nibble is the sub-opcode. -/
theorem encodes_class8 {i : Instr} {x y : Reg} (n : Nibble) (hi : i.WellFormed)
    (h : encode i = formatFXYN 0x8#4 x y n) : Encodes (0x8000 + n.toNat + x.val * 0x100 + y.val * 0x10) i := by
  refine encodes_of_toNat_encode hi ?_
  rw [h, toNat_formatFXYN, BitVec.toNat_ofNat]
  omega

end Sys2Proof

namespace Sys2Proof.Machine

open Sys2Proof.Spec

/-! ### The flags as numbers (R95 to R99) -/

theorem toNat_flagByte (c : Bool) : (flagByte c).toNat = c.toNat := by
  cases c <;> rfl

theorem toNat_carryFlag (a b : Byte) : (carryFlag a b).toNat = if 255 < a.toNat + b.toNat then 1 else 0 := by
  rw [carryFlag, toNat_flagByte, Bool.toNat, Bool.cond_decide]

theorem toNat_notBorrowFlag (a b : Byte) : (notBorrowFlag a b).toNat = if b.toNat ≤ a.toNat then 1 else 0 := by
  rw [notBorrowFlag, toNat_flagByte, Bool.toNat, Bool.cond_decide]

theorem toNat_lowBitFlag (a : Byte) : (lowBitFlag a).toNat = a.toNat % 2 := by
  rw [lowBitFlag, toNat_flagByte, BitVec.getLsbD, Nat.toNat_testBit, Nat.pow_zero, Nat.div_one]

theorem toNat_highBitFlag (a : Byte) : (highBitFlag a).toNat = a.toNat / 128 := by
  have ha := a.isLt
  rw [highBitFlag, toNat_flagByte, BitVec.getLsbD, Nat.toNat_testBit]
  omega

/-! ### The results as numbers -/

theorem toNat_sub_byte (a b : Byte) : (a - b).toNat = (a.toNat + 256 - b.toNat) % 256 := by
  have hb := b.isLt
  rw [BitVec.toNat_sub]
  omega

theorem toNat_shiftRight_one (a : Byte) : (a >>> 1).toNat = a.toNat / 2 := by
  rw [BitVec.toNat_ushiftRight, Nat.shiftRight_one]

theorem toNat_shiftLeft_one (a : Byte) : (a <<< 1).toNat = a.toNat * 2 % 256 := by
  rw [BitVec.toNat_shiftLeft, Nat.shiftLeft_eq]

/-! ### A class-8 operation with a flag (R69) -/

section Flagged

variable (s : State) (x : Reg)

/-- The state whose registers the result of a class-8 operation is computed from when the flag is `b` (R69). -/
def State.resultSource (b : Byte) : State :=
  if s.params.vfOrder = .sampleFirst then s else s.setV VF b

theorem State.getV_writeFlagged_resultSource (flag result : State → Byte) :
    (s.writeFlagged x flag result).getV x = result (s.resultSource (flag s)) := by
  rw [State.getV_writeFlagged_dest, State.resultSource, apply_ite result]

/-- Reading a register of the result's source is reading an operand as the obligations say it. -/
theorem State.toNat_getV_resultSource (r : Reg) (b : Byte) :
    ((s.resultSource b).getV r).toNat = resultOperand s r b.toNat := by
  unfold State.resultSource resultOperand
  cases s.params.vfOrder with
  | sampleFirst => simp
  | flagFirst =>
    by_cases hr : r = VF
    · simp [hr]
    · simp [hr, State.getV_setV_ne]

/-- Where the flag is `f` and the result is `v` as numbers, the operation leaves them in VF and in Vx. -/
theorem writeFlagged_completes {flag result : State → Byte} {f v : Nat} (hflag : (flag s).toNat = f)
    (hresult : (result (s.resultSource (flag s))).toNat = v) :
    ∃ t, (.next (s.writeFlagged x flag result) : Out) = .next t ∧ (t.getV x).toNat = v ∧
      (x ≠ VF → (t.getV VF).toNat = f) ∧ Frame (fun c => c = .V x ∨ c = .V VF) s t := by
  refine ⟨_, rfl, ?_, fun hx => ?_, Frame.writeFlagged s x flag result⟩
  · rw [State.getV_writeFlagged_resultSource, hresult]
  · rw [State.getV_writeFlagged_VF s flag result hx, hflag]

end Flagged

/-- Settles O28: the flag is the carry, and the result is the sum of its operands. -/
theorem addSetsTheCarry : Obligations.AddSetsTheCarry := by
  intro s x y
  refine ⟨encodes_class8 4 rfl rfl, writeFlagged_completes s x (toNat_carryFlag _ _) ?_⟩
  simp only [BitVec.toNat_add, State.toNat_getV_resultSource, toNat_carryFlag]

/-- Settles O29: the flag is the not-borrow, and the result is the difference of its operands. -/
theorem subSetsNotBorrow : Obligations.SubSetsNotBorrow := by
  intro s x y
  refine ⟨encodes_class8 5 rfl rfl, writeFlagged_completes s x (toNat_notBorrowFlag _ _) ?_⟩
  simp only [toNat_sub_byte, State.toNat_getV_resultSource, toNat_notBorrowFlag]

/-- Settles O30: as SUB, with the two operands exchanged. -/
theorem subnSetsNotBorrow : Obligations.SubnSetsNotBorrow := by
  intro s x y
  refine ⟨encodes_class8 7 rfl rfl, writeFlagged_completes s x (toNat_notBorrowFlag _ _) ?_⟩
  simp only [toNat_sub_byte, State.toNat_getV_resultSource, toNat_notBorrowFlag]

/-! ### The shifts (R97, R99) -/

theorem shiftSource_eq_shiftReg (s : State) (x y : Reg) : shiftSource s x y = shiftReg s x y := by
  unfold shiftSource shiftReg
  cases s.params.shiftSrc <;> rfl

/-- Settles O31: the flag is the source modulo 2, and the result is half of its operand. -/
theorem shiftRightDropsTheLowBit : Obligations.ShiftRightDropsTheLowBit := by
  intro s x y
  rw [← shiftSource_eq_shiftReg]
  refine ⟨encodes_class8 6 rfl rfl, writeFlagged_completes s x (toNat_lowBitFlag _) ?_⟩
  simp only [toNat_shiftRight_one, State.toNat_getV_resultSource, toNat_lowBitFlag]

/-- Settles O32: the flag is the source divided by 128, and the result is twice its operand. -/
theorem shiftLeftDropsTheHighBit : Obligations.ShiftLeftDropsTheHighBit := by
  intro s x y
  rw [← shiftSource_eq_shiftReg]
  refine ⟨encodes_class8 0xE rfl rfl, writeFlagged_completes s x (toNat_highBitFlag _) ?_⟩
  simp only [toNat_shiftLeft_one, State.toNat_getV_resultSource, toNat_highBitFlag]

/-! ### Writes of one register (R89, R90, R91, R100) -/

/-- Settles O26: each of the three is one register write. -/
theorem registerLoadsWriteOneRegister : Obligations.RegisterLoadsWriteOneRegister := by
  intro s x y kk
  have hldByte : (encode (.ldByte x kk)).toNat = 0x6000 + x.val * 0x100 + kk.toNat := by
    simp [encode, toNat_formatFXK]
  have haddByte : (encode (.addByte x kk)).toNat = 0x7000 + x.val * 0x100 + kk.toNat := by
    simp [encode, toNat_formatFXK]
  refine ⟨⟨encodes_of_toNat_encode rfl hldByte, _, rfl, State.getV_setV_same s x _, Frame.setV s x _⟩,
    ⟨encodes_of_toNat_encode rfl haddByte, _, rfl, ?_, Frame.setV s x _⟩,
    ⟨encodes_class8 0 rfl rfl, _, rfl, State.getV_setV_same s x _, Frame.setV s x _⟩⟩
  rw [State.getV_setV_same, BitVec.toNat_add]

/-- Settles O33: the draw is the oracle's byte at the count, and a bit outside the mask is in no masked byte. -/
theorem randomByteIsMasked : Obligations.RandomByteIsMasked := by
  intro s x kk
  have hword : (encode (.rnd x kk)).toNat = 0xC000 + x.val * 0x100 + kk.toNat := by simp [encode, toNat_formatFXK]
  have hread : (s.tookRand.setV x (s.nextRand &&& kk)).getV x = Config.rand s.draws &&& kk :=
    State.getV_setV_same _ x _
  refine ⟨encodes_of_toNat_encode rfl hword, _, rfl, hread, rfl, ?_,
    everyInstructionStaysInItsFootprint (.rnd x kk) s _ rfl⟩
  rw [hread, BitVec.and_assoc, BitVec.and_not_self]
  exact BitVec.and_zero

end Sys2Proof.Machine

/-! ## The index register and memory: loads of `I`, decimal digits, and block transfers (spec/44_index_memory.md) -/

namespace Sys2Proof

open Sys2Proof.Spec

/-- The words of class F (R56, R59): the low byte is the sub-opcode. -/
theorem encodes_classF {i : Instr} {x : Reg} (kk : Byte) (hi : i.WellFormed) (h : encode i = formatFXK 0xF#4 x kk) :
    Encodes (0xF000 + kk.toNat + x.val * 0x100) i := by
  refine encodes_of_toNat_encode hi ?_
  rw [h, toNat_formatFXK, BitVec.toNat_ofNat]
  omega

end Sys2Proof

namespace Sys2Proof.Machine

open Sys2Proof.Spec

/-! ### Writes of `I` (R101, R102, R103) -/

/-- Five times a byte has no more than 16 bits. -/
theorem toNat_glyphAddr (b : Byte) : (glyphAddr b).toNat = b.toNat * 5 :=
  Nat.mod_eq_of_lt (by have hb := b.isLt; omega)

/-- Settles O34: the address, or five times the byte, fits in `I`. -/
theorem indexLoadsWriteI : Obligations.IndexLoadsWriteI := by
  intro s nnn x
  have hword : (encode (.ldI nnn)).toNat = 0xA000 + nnn.toNat := by simp [encode, toNat_formatFA]
  exact ⟨⟨encodes_of_toNat_encode rfl hword, _, rfl, toNat_addrOf nnn, Frame.setI s _⟩,
    ⟨encodes_classF 0x29 rfl rfl, _, rfl, toNat_glyphAddr _, Frame.setI s _⟩⟩

/-- Settles O35: the sum of two words is taken mod 2^16, and Vx has the same number as a word. -/
theorem addToIndexWrapsAtSixteenBits : Obligations.AddToIndexWrapsAtSixteenBits := by
  intro s x
  refine ⟨encodes_classF 0x1E rfl rfl, _, rfl, ?_, Frame.setI s _⟩
  rw [State.setI_I, BitVec.toNat_add, BitVec.toNat_setWidth_of_le (by decide)]

/-! ### Blocks of bytes and of registers (R104, R105, R106) -/

section Blocks

variable (s : State)

theorem State.readByte_writeBytes_add (a k : Nat) {bs : List Byte} (hk : k < bs.length) :
    (s.writeBytes a bs).readByte (a + k) = bs[k] := by
  simp [State.readByte_writeBytes, hk]

theorem State.getV_loadRegsFrom_zero {bs : List Byte} (hlen : bs.length ≤ 16) {r : Reg} (hr : r.val < bs.length) :
    (s.loadRegsFrom 0 bs).getV r = bs[r.val] := by
  rw [State.getV_loadRegsFrom s 0 bs r (by omega), dif_pos ⟨Nat.zero_le _, hr⟩]
  rfl

@[simp] theorem State.readByte_afterTransfer (x : Reg) (a : Nat) : (s.afterTransfer x).readByte a = s.readByte a := by
  rw [State.afterTransfer_eq, State.setI_readByte]

@[simp] theorem State.getV_afterTransfer (x r : Reg) : (s.afterTransfer x).getV r = s.getV r := by
  rw [State.afterTransfer_eq, State.setI_getV]

theorem State.afterTransfer_I_of_unchanged (x : Reg) (h : s.params.ldstI = .unchanged) :
    (s.afterTransfer x).I = s.I := by
  simp [State.afterTransfer_eq, h]

theorem State.toNat_afterTransfer_I_of_advance (x : Reg) (h : s.params.ldstI = .advance) :
    (s.afterTransfer x).I.toNat = (s.I.toNat + x.val + 1) % 2 ^ 16 := by
  simp [State.afterTransfer_eq, h, BitVec.toNat_add, Nat.add_assoc]

end Blocks

/-! ### What the three instructions answer: a write or a load in range, a fault out of range -/

section Outcomes

variable {s : State} {x : Reg}

theorem lowestOutOfRange_of_le {base n : Nat} (h : base + n ≤ 0xFFF) : lowestOutOfRange base (n + 1) = none :=
  lowestOutOfRange_eq_none.2 (.inr (Nat.succ_le_succ h))

/-- The fault of an instruction whose last byte at `I` lies at the offset `n`, out of range (R114). -/
theorem exec_faults_of_out_of_range {i : Instr} {n : Nat} (hlen : bytesAtI i = some (n + 1))
    (hout : 0xFFF < s.I.toNat + n) :
    exec i s = .fault (.memOutOfRange (max s.I.toNat 0x1000) (encode i) (s.pc - 2#16)) :=
  exec_eq_raiseUndefined_of_lowestOutOfRange hlen (lowestOutOfRange_of_lt n.succ_pos (Nat.succ_lt_succ hout))

theorem exec_ldBcd_of_in_range (h : s.I.toNat + 2 ≤ 0xFFF) :
    exec (.ldBcd x) s = .next (s.writeBytes s.I.toNat (decimalDigits (s.getV x))) := by
  simp only [exec, execLdBcd, lowestOutOfRange_of_le h]

theorem exec_storeRegs_of_in_range (h : s.I.toNat + x.val ≤ 0xFFF) :
    exec (.storeRegs x) s = .next ((s.writeBytes s.I.toNat (regsUpTo s x)).afterTransfer x) := by
  simp only [exec, execStoreRegs, lowestOutOfRange_of_le h]

theorem exec_loadRegs_of_in_range (h : s.I.toNat + x.val ≤ 0xFFF) :
    exec (.loadRegs x) s = .next ((s.loadRegsFrom 0 (s.readBytes s.I.toNat (x.val + 1))).afterTransfer x) := by
  simp only [exec, execLoadRegs, lowestOutOfRange_of_le h]

end Outcomes

/-! ### The decimal digits (R104) -/

/-- Each digit is at most 9, so it is the number that its byte holds. -/
theorem toNat_getElem_decimalDigits (b : Byte) (k : Nat) (hk : k < 3) :
    ((decimalDigits b)[k]'hk).toNat = [b.toNat / 100, b.toNat / 10 % 10, b.toNat % 10][k] := by
  have hb := b.isLt
  match k with
  | 0 => exact Nat.mod_eq_of_lt (a := b.toNat / 100) (by omega)
  | 1 => exact Nat.mod_eq_of_lt (a := b.toNat / 10 % 10) (by omega)
  | 2 => exact Nat.mod_eq_of_lt (a := b.toNat % 10) (by omega)

theorem State.toNat_readByte_writeBytes_decimalDigits (s : State) (a : Nat) (b : Byte) (k : Nat) (hk : k < 3) :
    ((s.writeBytes a (decimalDigits b)).readByte (a + k)).toNat =
      [b.toNat / 100, b.toNat / 10 % 10, b.toNat % 10][k] := by
  rw [State.readByte_writeBytes_add s a k (bs := decimalDigits b) hk, toNat_getElem_decimalDigits b k hk]

/-- Settles O36: byte `k` of the block is digit `k`, and the range check comes before the writes. -/
theorem decimalDigitsAreStored : Obligations.DecimalDigitsAreStored := by
  intro s x
  refine ⟨encodes_classF 0x33 rfl rfl, fun hin => ?_, exec_faults_of_out_of_range rfl⟩
  have hnext := exec_ldBcd_of_in_range (x := x) hin
  have hdigit := s.toNat_readByte_writeBytes_decimalDigits s.I.toNat (s.getV x)
  exact ⟨_, hnext, hdigit 0 (by decide), hdigit 1 (by decide), hdigit 2 (by decide),
    everyInstructionStaysInItsFootprint _ s _ hnext⟩

/-! ### Registers to memory and back (R105, R106) -/

/-- Settles O37: byte `r` of the block is Vr, and the store leaves `I` to `P_LDST_I`. -/
theorem registersAreStored : Obligations.RegistersAreStored := by
  intro s x
  refine ⟨encodes_classF 0x55 rfl rfl, fun hin => ?_, exec_faults_of_out_of_range rfl⟩
  have hnext := exec_storeRegs_of_in_range hin
  obtain ⟨-, hI, -, -, -, -, -, -, -, -, hparams, -⟩ := s.writeBytes_fields s.I.toNat (regsUpTo s x)
  refine ⟨_, hnext, fun r hr => ?_, fun hldstI => ?_, fun hldstI => ?_,
    (everyInstructionStaysInItsFootprint _ s _ hnext).mono fun _ => Or.symm ∘ Or.imp_right And.left⟩
  · have hlen : r.val < (regsUpTo s x).length := by simpa using Nat.lt_succ_of_le hr
    rw [State.readByte_afterTransfer, State.readByte_writeBytes_add s _ _ hlen, getElem_regsUpTo,
      Fin.ofNat_val_eq_self]
  · exact (State.afterTransfer_I_of_unchanged _ x (hparams ▸ hldstI)).trans hI
  · rw [State.toNat_afterTransfer_I_of_advance _ x (hparams ▸ hldstI), hI]

/-- Settles O38: Vr is byte `r` of the block, and the load leaves `I` to `P_LDST_I`. -/
theorem registersAreLoaded : Obligations.RegistersAreLoaded := by
  intro s x
  refine ⟨encodes_classF 0x65 rfl rfl, fun hin => ?_, exec_faults_of_out_of_range rfl⟩
  have hnext := exec_loadRegs_of_in_range hin
  have hlen := s.length_readBytes s.I.toNat (x.val + 1)
  have hload := Frame.loadRegsFrom s hlen
  have hI := hload .I (by simp [upToV])
  have hparams := hload .params (by simp [upToV])
  refine ⟨_, hnext, fun r hr => ?_, fun hldstI => ?_, fun hldstI => ?_,
    (everyInstructionStaysInItsFootprint _ s _ hnext).mono fun _ => Or.symm ∘ Or.imp_right And.left⟩
  · have hr' : r.val < (s.readBytes s.I.toNat (x.val + 1)).length := (Nat.lt_succ_of_le hr).trans_eq hlen.symm
    rw [State.getV_afterTransfer, State.getV_loadRegsFrom_zero s (by omega) hr', State.getElem_readBytes]
  · exact (State.afterTransfer_I_of_unchanged _ x (hparams ▸ hldstI)).trans hI
  · rw [State.toNat_afterTransfer_I_of_advance _ x (hparams ▸ hldstI), hI]

/-- Settles O39: FX55 completes in `s` only in range, and FX65 reads in `u` the bytes that it wrote. -/
theorem storedRegistersComeBack : Obligations.StoredRegistersComeBack := by
  intro s t u x hstore hI hread
  obtain ⟨-, hstores, hstoreFaults⟩ := registersAreStored s x
  obtain ⟨-, hloads, -⟩ := registersAreLoaded u x
  have hin : s.I.toNat + x.val ≤ 0xFFF := by
    by_contra hout
    simp [hstoreFaults (Nat.lt_of_not_le hout)] at hstore
  obtain ⟨t', hstore', hbytes, -⟩ := hstores hin
  obtain rfl : t' = t := by simpa [hstore'] using hstore
  obtain ⟨v, hload, hregs, -, -, hframe⟩ := hloads (hI ▸ hin)
  refine ⟨v, hload, fun r hr => ?_, fun r hr => ?_⟩
  · calc v.getV r
      _ = u.readByte (u.I.toNat + r.val) := hregs r hr
      _ = t'.readByte (s.I.toNat + r.val) := by rw [hread, hI]
      _ = s.getV r := hbytes r hr
  · exact hframe (.V r) (by simp [upToV, hr])

end Sys2Proof.Machine

/-! ## The keypad and the timers: key skips, the key wait, and the timer transfers (spec/45_keypad_timers.md) -/

namespace Sys2Proof

open Sys2Proof.Spec

/-- The words of class E (R56, R59): the low byte is the sub-opcode. -/
theorem encodes_classE {i : Instr} {x : Reg} (kk : Byte) (hi : i.WellFormed) (h : encode i = formatFXK 0xE#4 x kk) :
    Encodes (0xE000 + kk.toNat + x.val * 0x100) i := by
  refine encodes_of_toNat_encode hi ?_
  rw [h, toNat_formatFXK, BitVec.toNat_ofNat]
  omega

end Sys2Proof

namespace Sys2Proof.Machine

open Sys2Proof.Spec

/-! ### What the instructions that read the keypad answer -/

section Keypad

variable {s : State} {x : Reg} {k : Key}

theorem exec_skp_of_key (h : (s.getV x).toNat = k.val) : exec (.skp x) s = .next (s.skipIf (s.getKey k)) := by
  simp only [exec, execSkp, keyOf_eq_some.2 h]

theorem exec_sknp_of_key (h : (s.getV x).toNat = k.val) : exec (.sknp x) s = .next (s.skipIf (!s.getKey k)) := by
  simp only [exec, execSknp, keyOf_eq_some.2 h]

theorem exec_skp_of_no_key (h : 0xF < (s.getV x).toNat) :
    exec (.skp x) s = .fault (.keyIndexOutOfRange (s.getV x) (encode (.skp x)) (s.pc - 2#16)) := by
  simp only [exec, execSkp, keyOf_eq_none.2 h, raiseUndefined_eq]

theorem exec_sknp_of_no_key (h : 0xF < (s.getV x).toNat) :
    exec (.sknp x) s = .fault (.keyIndexOutOfRange (s.getV x) (encode (.sknp x)) (s.pc - 2#16)) := by
  simp only [exec, execSknp, keyOf_eq_none.2 h, raiseUndefined_eq]

theorem exec_ldKey_of_lowest (hk : s.getKey k = true) (hlow : ∀ j, j < k → s.getKey j = false) :
    exec (.ldKey x) s = .next (s.setV x (BitVec.ofNat 8 k.val)) := by
  simp only [exec, execLdKey, lowestPressed_eq_some.2 ⟨hk, hlow⟩]

theorem exec_ldKey_of_released (h : ∀ k, s.getKey k = false) :
    exec (.ldKey x) s = .next (s.setPc (s.pc - 2#16)) := by
  simp only [exec, execLdKey, lowestPressed_eq_none.2 h]

end Keypad

/-! ### The key skips (R107, R108) -/

theorem State.toNat_pc_skipIf_not (s : State) (c : Bool) :
    (s.skipIf (!c)).pc.toNat = if c then s.pc.toNat else (s.pc.toNat + 2) % 2 ^ 16 := by
  cases c <;> exact s.toNat_pc_skipIf _

/-- Settles O40: the two skip on the state of the key that Vx names or on its negation, and fault where it names
none. -/
theorem keySkipsTestTheKey : Obligations.KeySkipsTestTheKey := by
  intro s x
  refine ⟨encodes_classE 0x9E rfl rfl, encodes_classE 0xA1 rfl rfl, fun k hk => ⟨?_, ?_⟩, fun hout => ⟨?_, ?_⟩⟩
  · exact ⟨_, exec_skp_of_key hk, s.toNat_pc_skipIf _, Frame.skipIf s _⟩
  · exact ⟨_, exec_sknp_of_key hk, s.toNat_pc_skipIf_not _, Frame.skipIf s _⟩
  · exact exec_skp_of_no_key hout
  · exact exec_sknp_of_no_key hout

/-! ### The key wait (R110) -/

theorem toNat_ofNat_key (k : Key) : (BitVec.ofNat 8 k.val).toNat = k.val :=
  Nat.mod_eq_of_lt (by omega)

theorem toNat_sub_two_word (w : Word) : (w - 2#16).toNat = (w.toNat + 2 ^ 16 - 2) % 2 ^ 16 := by
  rw [BitVec.toNat_sub, BitVec.toNat_ofNat]
  omega

/-- Settles O42: with a key pressed, FX0A is a write of Vx; with none, it takes the advance back. -/
theorem keyWaitLatchesTheLowestKey : Obligations.KeyWaitLatchesTheLowestKey := by
  intro s x
  refine ⟨encodes_classF 0x0A rfl rfl, fun k hk hlow => ?_, fun hreleased => ?_⟩
  · refine ⟨_, exec_ldKey_of_lowest hk hlow, ?_, Frame.setV s x _⟩
    rw [State.getV_setV_same, toNat_ofNat_key]
  · exact ⟨_, exec_ldKey_of_released hreleased, toNat_sub_two_word s.pc, Frame.setPc s _⟩

/-! ### The timer transfers (R109, R111, R112) -/

/-- Settles O41: each of the three is one write, of Vx or of a timer. -/
theorem timerTransfersCopyTheByte : Obligations.TimerTransfersCopyTheByte := by
  intro s x
  exact ⟨⟨encodes_classF 0x07 rfl rfl, _, rfl, State.getV_setV_same s x _, Frame.setV s x _⟩,
    ⟨encodes_classF 0x15 rfl rfl, _, rfl, State.setDT_DT s _, Frame.setDT s _⟩,
    ⟨encodes_classF 0x18 rfl rfl, _, rfl, State.setST_ST s _, Frame.setST s _⟩⟩

end Sys2Proof.Machine

/-! ## The host: the timers, the keypad, the outputs and the trace (spec/60_exceptions.md)

A tick, a key write and a load have their frames. An engine that is marked and not reset changes its timers by ticks
alone, so after `n` operations each timer is its first value less the number of ticks among them
(`stateAt_countedDown`). -/

namespace Sys2Proof.Machine

open Filter

/-! ### The tick (R121) -/

@[simp] theorem toNat_tickDown (t : Byte) : (tickDown t).toNat = t.toNat - 1 := by
  unfold tickDown
  split
  · bv_omega
  · omega

theorem Frame.tick (s : State) : Frame (fun c => c = .DT ∨ c = .ST) s (tick s) :=
  (Frame.setDT s _).comp (Frame.setST _ _)

/-- Settles O43: a tick writes the two timers, each counted down. -/
theorem tickDecrementsBothTimers : Obligations.TickDecrementsBothTimers := fun s =>
  ⟨toNat_tickDown s.DT, toNat_tickDown s.ST, Frame.tick s⟩

/-! ### The keys and the outputs (R123 to R125) -/

theorem Frame.setKey (s : State) (k : Key) (b : Bool) : Frame (· = .key k) s (s.setKey k b) := by
  intro c hc
  cases c with
  | key q =>
    have hq : q ≠ k := fun e => hc (congrArg Component.key e)
    exact (State.getKey_setKey s k q b).trans (if_neg hq)
  | _ => rfl

theorem readSound_iff {s : State} : readSound s = true ↔ s.ST.toNat ≠ 0 :=
  decide_eq_true_iff.trans Nat.pos_iff_ne_zero

theorem readSound_eq_false_iff {s : State} : readSound s = false ↔ s.ST.toNat = 0 := by
  rw [← Bool.not_eq_true, readSound_iff, not_not]

/-- The flat index of (x, y) gives back its column and its row (R30). -/
theorem flatCell_index (s : State) (x : Fin 64) (y : Fin 32) : flatCell s (y.val * 64 + x.val) = s.pixel x y := by
  have hx : Fin.ofNat 64 (y.val * 64 + x.val) = x := Fin.ext (by simp only [Fin.val_ofNat]; omega)
  have hy : Fin.ofNat 32 ((y.val * 64 + x.val) / 64) = y := Fin.ext (by simp only [Fin.val_ofNat]; omega)
  rw [flatCell, hx, hy]

theorem length_readFb (s : State) : (readFb s).length = 2048 := by simp [readFb]

theorem readFb_getElem? {s : State} {j : Nat} (h : j < 2048) : (readFb s)[j]? = some (flatCell s j) := by
  simp [readFb, h]

/-- Settles O47: a key write is read back, and the framebuffer is read by the flat index of each pixel. -/
theorem hostReadsAndKeyWrites : Obligations.HostReadsAndKeyWrites := by
  intro s k b
  refine ⟨?_, Frame.setKey s k b, ⟨rfl, rfl⟩, readSound_iff, length_readFb s, fun x y => ?_⟩
  · exact (State.getKey_setKey s k k b).trans (if_pos rfl)
  · rw [readFb_getElem? (by omega), flatCell_index]

/-! ### The trace notice (R128) -/

theorem traceNotice_of_mark {s : State} (h : s.mark ≠ none) : traceNotice s = none := by
  obtain ⟨f, hf⟩ := Option.ne_none_iff_exists'.1 h
  simp [traceNotice, hf]

theorem traceNotice_of_unmarked {s : State} (h : s.mark = none) :
    traceNotice s = if s.canFetch then some ⟨s.fetchWord, s⟩ else none := by
  simp [traceNotice, h]

theorem traceNotice_of_stuck {s : State} (h : s.canFetch = false) : traceNotice s = none := by
  by_cases hmark : s.mark = none
  · simp [traceNotice_of_unmarked hmark, h]
  · exact traceNotice_of_mark hmark

/-- Settles O48: the notice is of the fetched word, and without a fetch there is none. -/
theorem traceNoticeIsTheWordAndTheStartState : Obligations.TraceNoticeIsTheWordAndTheStartState := by
  intro s
  refine ⟨fun hmark hpc => ⟨s.fetchWord, ?_, s.toNat_fetchWord⟩, fun hpc => ?_, traceNotice_of_mark⟩
  · rw [traceNotice_of_unmarked hmark, if_pos (s.canFetch_iff.2 hpc)]
  · exact traceNotice_of_stuck (Bool.eq_false_iff.2 fun h => Nat.not_le.2 hpc (s.canFetch_iff.1 h))

/-! ### The timers of a marked engine run out (R115, R121, R136) -/

theorem hostStep_of_mark {s : State} (h : s.mark ≠ none) : hostStep s = s := by
  obtain ⟨_, _, he⟩ | ⟨hm, _⟩ | ⟨hm, _⟩ | ⟨hm, _⟩ := hostStep_cases s
  · exact he
  all_goals exact absurd hm h

/-- A load writes memory at most. -/
theorem Frame.load (rom : List Byte) (s : State) : Frame (fun c => ∃ a, c = .byte a) s (load rom s) := by
  unfold Sys2Proof.Machine.load
  split
  · exact Frame.refl s _
  · exact (Frame.writeBytes s _ rom).mono fun _ ⟨j, _, hc⟩ => ⟨_, hc⟩

/-- Without a tick or a reset, the host changes keys and memory of a marked engine, and nothing else. -/
theorem HostOp.apply_frame_of_mark {op : HostOp} {s : State} (hmark : s.mark ≠ none) (hreset : op ≠ .reset)
    (htick : op ≠ .tick) : Frame (fun c => (∃ k, c = .key k) ∨ ∃ a, c = .byte a) s (op.apply s) := by
  cases op with
  | step =>
    rw [HostOp.apply, hostStep_of_mark hmark]
    exact Frame.refl s _
  | tick => exact absurd rfl htick
  | reset => exact absurd rfl hreset
  | load rom => exact (Frame.load rom s).mono fun _ => .inr
  | setKey k b => exact (Frame.setKey s k b).mono fun _ hc => .inl ⟨k, hc⟩
  | readFb | readSound => exact Frame.refl s _

/-- `t` has the mark of `s`, and its timers are those of `s` counted down `n` times. -/
structure CountedDown (n : Nat) (s t : State) : Prop where
  mark : t.mark = s.mark
  DT   : t.DT.toNat = s.DT.toNat - n
  ST   : t.ST.toNat = s.ST.toNat - n

theorem CountedDown.trans {m n : Nat} {s t u : State} (h₁ : CountedDown m s t) (h₂ : CountedDown n t u) :
    CountedDown (m + n) s u where
  mark := h₂.mark.trans h₁.mark
  DT := by rw [h₂.DT, h₁.DT, Nat.sub_sub]
  ST := by rw [h₂.ST, h₁.ST, Nat.sub_sub]

theorem HostOp.apply_countedDown {op : HostOp} {s : State} (hmark : s.mark ≠ none) (hreset : op ≠ .reset) :
    CountedDown (if op = .tick then 1 else 0) s (op.apply s) := by
  split
  · rename_i htick
    subst htick
    exact ⟨rfl, toNat_tickDown s.DT, toNat_tickDown s.ST⟩
  · rename_i htick
    have hframe := HostOp.apply_frame_of_mark hmark hreset htick
    exact ⟨hframe .mark (by simp), congrArg _ (hframe .DT (by simp)), congrArg _ (hframe .ST (by simp))⟩

/-- The timers of a marked engine that is not reset count the ticks. -/
theorem stateAt_countedDown {schedule : Nat → HostOp} {s : State} (hmark : s.mark ≠ none)
    (hreset : ∀ n, schedule n ≠ .reset) (n : Nat) :
    CountedDown (Nat.count (schedule · = .tick) n) s (stateAt schedule s n) := by
  induction n with
  | zero => exact ⟨rfl, rfl, rfl⟩
  | succ n ih =>
    rw [Nat.count_succ]
    exact ih.trans (HostOp.apply_countedDown (ih.mark ▸ hmark) (hreset n))

theorem TicksForever.infinite {schedule : Nat → HostOp} (h : TicksForever schedule) :
    {n | schedule n = .tick}.Infinite :=
  Nat.frequently_atTop_iff_infinite.1 (frequently_atTop.2 h)

/-- Settles O57: a timer is a byte, so it is 0 from the 255th tick on. -/
theorem timersRunOutOnAMarkedEngine : Obligations.TimersRunOutOnAMarkedEngine := by
  intro schedule s hmark hticks hreset
  refine ⟨Nat.nth (schedule · = .tick) 255, fun m hm => ?_⟩
  have hcount : 255 ≤ Nat.count (schedule · = .tick) m :=
    (Nat.count_nth_of_infinite hticks.infinite 255).symm.le.trans (Nat.count_monotone _ hm)
  obtain ⟨-, hDT, hST⟩ := stateAt_countedDown hmark hreset m
  have hDT_lt := s.DT.isLt
  have hST_lt := s.ST.isLt
  exact ⟨BitVec.eq_of_toNat_eq (hDT.trans (Nat.sub_eq_zero_of_le (by omega))),
    readSound_eq_false_iff.2 (hST.trans (Nat.sub_eq_zero_of_le (by omega)))⟩

end Sys2Proof.Machine

/-! ## The interface: reset, load and the invariant of every host operation (spec/70_reset_and_hazards.md) -/

namespace Sys2Proof.Machine

/-- Settles O55: the invariant is kept by the operations case by case, the step with its marks included. -/
theorem everyHostOperationKeepsTheInvariant : Obligations.EveryHostOperationKeepsTheInvariant := fun op _ hinv =>
  op.apply_keeps_inv hinv

/-! ### The loader (R134) -/

section Load

variable {rom : List Byte} {s : State}

theorem loadCheck_eq_emptyInput (h : rom.length = 0) : loadCheck rom = some .emptyInput :=
  if_pos h

theorem loadCheck_eq_tooLarge (h : Config.maxRom < rom.length) : loadCheck rom = some .tooLarge := by
  rw [loadCheck, if_neg (Nat.ne_zero_of_lt h), if_pos h]

theorem load_of_rejected {e : LoadError} (h : loadCheck rom = some e) : load rom s = s := by
  simp only [load, h]

theorem load_of_accepted (h : loadCheck rom = none) : load rom s = s.writeBytes Config.progBase rom := by
  simp only [load, h]

end Load

/-- Settles O46: a rejected ROM leaves the state, and an accepted one is a block of bytes written from 0x200 on. -/
theorem loadCopiesTheRom : Obligations.LoadCopiesTheRom := by
  intro s rom
  refine ⟨fun hempty => ?_, fun hlarge => ?_, fun hpos hle => ?_⟩
  · have hcheck := loadCheck_eq_emptyInput hempty
    exact ⟨hcheck, load_of_rejected hcheck⟩
  · have hcheck := loadCheck_eq_tooLarge hlarge
    exact ⟨hcheck, load_of_rejected hcheck⟩
  · have hcheck := loadCheck_eq_none.2 ⟨hpos, hle⟩
    rw [load_of_accepted hcheck]
    exact ⟨hcheck, fun j hj => s.readByte_writeBytes_add Config.progBase j hj,
      Frame.writeBytes s Config.progBase rom⟩

/-! ### Reset (R131, R132) -/

/-- Reset reads two fields of the state, the parameters and the draws, so states that agree in them are reset alike. -/
theorem hostReset_congr {s t : State} (hparams : s.params = t.params) (hdraws : s.draws = t.draws) :
    hostReset s = hostReset t := by
  rw [hostReset, hostReset, hparams, hdraws]

/-- Settles O45: a reset keeps the two fields that a reset reads, and with the default parameters only the draws can
differ from the reset state. -/
theorem resetIsIdempotent : Obligations.ResetIsIdempotent := by
  intro s
  refine ⟨hostReset_congr rfl rfl, fun hparams => ?_⟩
  rw [hostReset, hparams]
  rfl

end Sys2Proof.Machine

/-! ## The model outcomes and the mark: what a step answers, and what ends a run (spec/60_exceptions.md)

An instruction answers what the table of model outcomes says of it (`exec_answers`), so a step stops only past memory or
at an outcome of the table. Until reset, every host operation keeps a mark (`HostOp.apply_mark`). -/

namespace Sys2Proof.Machine

open Sys2Proof.Spec

/-! ### What an instruction answers, by the table (R114, R116) -/

/-- The outcome is the fault that an entry of the table names, or a next state where it names none. -/
inductive Out.Answers : Out → Option Fault → Prop
  | next (t : State) : Answers (.next t) none
  | fault (f : Fault) : Answers (.fault f) (some f)

theorem Out.Answers.completes_or_faults {o : Out} {entry : Option Fault} (h : Out.Answers o entry) :
    (entry = none → ∃ t, o = .next t) ∧ ∀ f, entry = some f → o = .fault f := by
  cases h with
  | next t => exact ⟨fun _ => ⟨t, rfl⟩, nofun⟩
  | fault f => exact ⟨nofun, fun _ hf => congrArg _ (Option.some.inj hf)⟩

theorem Out.Answers.entry_of_fault {f : Fault} {entry : Option Fault} (h : Out.Answers (.fault f) entry) :
    entry = some f := by
  cases h
  rfl

section Table

variable {i : Instr} {s : State}

/-- The table's test of a block, by its last address, is the range check of the whole block. -/
theorem map_lowestOutOfRange {α : Type} (g : Nat → α) (base len : Nat) :
    (lowestOutOfRange base len).map g =
      if 0 < len ∧ 0xFFF < base + (len - 1) then some (g (max base 0x1000)) else none := by
  rw [lowestOutOfRange, apply_ite (Option.map g)]
  exact if_congr (by unfold Config.memSize; omega) rfl rfl

theorem undefinedOutcome_of_bytesAtI {len : Nat} (hlen : bytesAtI i = some len) :
    undefinedOutcome i s =
      (lowestOutOfRange s.I.toNat len).map fun a => .memOutOfRange a (encode i) (s.pc - 2#16) := by
  rw [map_lowestOutOfRange]
  cases i with
  | drw | ldBcd | storeRegs | loadRegs =>
    obtain rfl := Option.some.inj hlen
    simp [undefinedOutcome]
  | _ => cases hlen

theorem exec_answers_of_bytesAtI {len : Nat} (hlen : bytesAtI i = some len) :
    Out.Answers (exec i s) (undefinedOutcome i s) := by
  rw [undefinedOutcome_of_bytesAtI hlen]
  cases hrange : lowestOutOfRange s.I.toNat len with
  | none =>
    obtain ⟨t, ht⟩ := exec_completes_of_block_in_range hlen hrange
    rw [ht]
    exact .next t
  | some a =>
    rw [exec_eq_raiseUndefined_of_lowestOutOfRange hlen hrange]
    exact .fault _

/-- A key skip completes where the byte names a key, and faults on the bytes that the table names. -/
theorem Out.Answers.of_key {o : Out} {b : Byte} {f : Fault} (hkey : ∀ k : Key, b.toNat = k.val → ∃ t, o = .next t)
    (hnone : 0xF < b.toNat → o = .fault f) : Out.Answers o (if 0xF < b.toNat then some f else none) := by
  by_cases hb : 0xF < b.toNat
  · rw [if_pos hb, hnone hb]
    exact .fault f
  · obtain ⟨t, rfl⟩ := hkey ⟨b.toNat, by omega⟩ rfl
    rw [if_neg hb]
    exact .next t

end Table

/-- Of the instructions that the table does not name, RET, CALL and FX0A answer a next state on each of their
branches. -/
theorem exec_answers (i : Instr) (s : State) : Out.Answers (exec i s) (undefinedOutcome i s) := by
  cases i with
  | drw | ldBcd | storeRegs | loadRegs => exact exec_answers_of_bytesAtI rfl
  | skp => exact .of_key (fun _ hk => ⟨_, exec_skp_of_key hk⟩) exec_skp_of_no_key
  | sknp => exact .of_key (fun _ hk => ⟨_, exec_sknp_of_key hk⟩) exec_sknp_of_no_key
  | ret | call | ldKey =>
    simp only [exec, execRet, execCall, execLdKey]
    split <;> exact .next _
  | _ => exact .next _

/-- Settles O11: `exec_answers`, read as the two implications. -/
theorem everyInstructionCompletesOrRaisesItsOutcome : Obligations.EveryInstructionCompletesOrRaisesItsOutcome :=
  fun i s => (exec_answers i s).completes_or_faults

/-! ### What a step answers (R66, R115) -/

section Step

variable {s : State}

theorem step_answers (hmark : s.mark = none) (hfetch : s.canFetch = true) :
    Out.Answers (step s) (undefinedOutcome (decodeWord s.fetchWord) s.advance) := by
  rw [step_eq_exec hmark hfetch]
  exact exec_answers _ _

theorem State.canFetch_eq_false_iff : s.canFetch = false ↔ 0xFFE < s.pc.toNat := by
  rw [← Bool.not_eq_true, State.canFetch_iff, Nat.not_le]

end Step

/-- Settles O12: past memory the step is stuck, and elsewhere it answers what the table says. -/
theorem noStepIsRefused : Obligations.NoStepIsRefused := by
  intro s hmark
  cases hfetch : s.canFetch with
  | false => exact .inr (.inl ⟨State.canFetch_eq_false_iff.1 hfetch, step_eq_stuck hmark hfetch⟩)
  | true =>
    obtain ⟨hnext, hfault⟩ := (step_answers hmark hfetch).completes_or_faults
    cases hentry : undefinedOutcome (decodeWord s.fetchWord) s.advance with
    | none => exact .inl (hnext hentry)
    | some f => exact .inr (.inr ⟨s.canFetch_iff.1 hfetch, f, rfl, hfault f hentry⟩)

/-! ### What a step that stops leaves (R66, R70, R114, R115) -/

section Stopped

variable {s : State} {f : Fault}

theorem hostStep_of_fault (hmark : s.mark = none) (hstep : step s = .fault f) : hostStep s = markFault s f := by
  simp only [hostStep, hmark, hstep]

/-- Stuck is no outcome of the table. -/
theorem undefinedOutcome_ne_stuck (i : Instr) (s : State) (pc : Word) :
    undefinedOutcome i s ≠ some (.fetchOutOfRange pc) := by
  cases i with
  | drw | ldBcd | storeRegs | loadRegs | skp | sknp => simp [undefinedOutcome]
  | _ => nofun

theorem markFault_of_undefinedOutcome {i : Instr} {t : State} (h : undefinedOutcome i t = some f) :
    markFault s f = s.advance.setMark (some f) := by
  cases f with
  | fetchOutOfRange pc => exact absurd h (undefinedOutcome_ne_stuck i t pc)
  | memOutOfRange | keyIndexOutOfRange => rfl

end Stopped

/-- Settles O10: a fault at a `pc` that can be fetched from is an outcome of the table. -/
theorem undefinedLeavesOnlyTheAdvance : Obligations.UndefinedLeavesOnlyTheAdvance := by
  intro s f hmark hpc hstep
  have hanswers := step_answers hmark (s.canFetch_iff.2 hpc)
  rw [hstep] at hanswers
  rw [hostStep_of_fault hmark hstep, markFault_of_undefinedOutcome hanswers.entry_of_fault]
  exact ⟨rfl, step_eq_fault_of_mark rfl⟩

/-! ### What keeps a mark (R114, R115, R136) -/

theorem HostOp.apply_mark {op : HostOp} {s : State} (hmark : s.mark ≠ none) (hreset : op ≠ .reset) :
    (op.apply s).mark = s.mark :=
  (HostOp.apply_countedDown hmark hreset).mark

theorem runSchedule_mark {ops : List HostOp} {s : State} (hmark : s.mark ≠ none) (hreset : .reset ∉ ops) :
    (runSchedule s ops).mark = s.mark := by
  induction ops generalizing s with
  | nil => rfl
  | cons op ops ih =>
    obtain ⟨hop, hops⟩ := List.ne_and_not_mem_of_not_mem_cons hreset
    have hkept := HostOp.apply_mark hmark hop.symm
    exact (ih (hkept ▸ hmark) hops).trans hkept

/-- Settles O9, by induction on the operations. -/
theorem aMarkEndsTheRunUntilReset : Obligations.AMarkEndsTheRunUntilReset := by
  intro s f hmark
  have hmarked : s.mark ≠ none := by simp [hmark]
  refine ⟨step_eq_fault_of_mark hmark, hostStep_of_mark hmarked, rfl, fun ops hreset => ?_⟩
  have hkept := (runSchedule_mark hmarked hreset).trans hmark
  exact ⟨hkept, step_eq_fault_of_mark hkept⟩

/-- Settles O8: the step is stuck and leaves the mark alone, which any operation but reset keeps. -/
theorem fetchPastMemoryIsStuck : Obligations.FetchPastMemoryIsStuck := by
  intro s hmark hpc
  have hfetch := State.canFetch_eq_false_iff.2 hpc
  have hstep := step_eq_stuck hmark hfetch
  rw [hostStep_of_fault hmark hstep]
  exact ⟨hstep, traceNotice_of_stuck hfetch, rfl, fun op => HostOp.apply_mark (by simp [markFault]), rfl,
    toNat_tickDown s.DT, toNat_tickDown s.ST⟩

end Sys2Proof.Machine

/-! ## The ALU: bitwise operations (spec/43_alu.md) -/

namespace Sys2Proof.Machine

open Sys2Proof.Spec

/-- Settles O27: each of the three is one write of Vx, with a byte that is made bit by bit. -/
theorem bitwiseOperationsActBitByBit : Obligations.BitwiseOperationsActBitByBit := by
  intro s x y
  refine ⟨⟨encodes_class8 1 rfl rfl, _, rfl, Frame.setV s x _, fun b _ => ?_⟩,
    ⟨encodes_class8 2 rfl rfl, _, rfl, Frame.setV s x _, fun b _ => ?_⟩,
    ⟨encodes_class8 3 rfl rfl, _, rfl, Frame.setV s x _, fun b _ => ?_⟩⟩ <;> rw [State.getV_setV_same]
  · exact BitVec.getLsbD_or
  · exact BitVec.getLsbD_and
  · exact BitVec.getLsbD_xor

end Sys2Proof.Machine
